-- ==== Sys2Proof/Word.lean ====
section
/-! DEFINITION. The word types of the engine and the plain data its ports and procedures carry
(`00_scope.md` §4.1, `10_state.md` R10, `30_encoding.md` R60). -/

namespace Sys2Proof

/-- One byte of a message, a key or an encoded password (R44, R210). -/
abbrev Byte := BitVec 8

/-- A Block or a Key: a 64-bit unsigned value (R5, R11, R12). -/
abbrev Block := BitVec 64

/-- A half C or D of the key schedule (R13). -/
abbrev KeyHalf := BitVec 28

/-- A round subkey, exactly 48 bits (R14, R117). -/
abbrev Subkey := BitVec 48

/-- A half L or R of the data block (R15). -/
abbrev DataHalf := BitVec 32

/-- The sixteen subkeys; index `i` holds the subkey of round `i + 1` (R14: there is no SK[0]). -/
abbrev SubkeyFile := Vector Subkey 16

/-- The values of RND, "`Fin 17` for RND" (R28): a 5-bit register that takes 0 to 16 only (R21). The codes 17 to 31 cannot
be written, so that no step is given to them (U4; log 10). -/
abbrev RoundNumber := Fin 17

/-- The eight data registers (R10, class "data"): those that R29 leaves unspecified after reset. -/
structure DataRegisters where
  key : BitVec 64
  din : BitVec 64
  c : BitVec 28
  d : BitVec 28
  sk : Vector (BitVec 48) 16
  l : BitVec 32
  r : BitVec 32
  dout : BitVec 64
  deriving DecidableEq, Repr, Inhabited

/-- A password text: a sequence of Unicode scalar values (R216, R217). -/
abbrev Text := List Char

/-- A sequence of exactly 8 bytes, `b0` first (R44, R210). -/
structure Bytes8 where
  b0 : Byte
  b1 : Byte
  b2 : Byte
  b3 : Byte
  b4 : Byte
  b5 : Byte
  b6 : Byte
  b7 : Byte
  deriving DecidableEq, Repr

/-- The rotation amounts of the key schedule: 1 or 2, "never 0 and never more than 2" (R112). -/
inductive RotAmount where
  | one
  | two
  deriving DecidableEq, Repr

/-- The controller phases of R20 and R70. The codes 6 and 7, which no rule produces (R28), have no
constructor (R28, U4; log 10). -/
inductive Phase where
  | idle
  | kspc1
  | ksrot
  | iperm
  | round
  | fperm
  deriving DecidableEq, Repr

/-- One sample of the input ports at a rising edge: the triple of R61 and R76. -/
structure PortIn where
  rst : Bool
  cmd : BitVec 3
  din : BitVec 64
  deriving DecidableEq, Repr, Inhabited

/-- The three kinds of bit pattern the opcode table has (R77): a sample of `cmd` and `din` (67 bits, R62),
a PHASE code (R70), an S-box LUT address (R42). -/
inductive CodeWord where
  | command (w : BitVec 67)
  | phase (p : BitVec 3)
  | lut (a : BitVec 9)
  deriving DecidableEq, Repr

/-- The errors a host procedure returns to its caller (R230, R235, R236), with the offending length. -/
inductive HostError where
  /-- `encrypt` with a message of a length other than 8 or 16 (R213, R230). -/
  | invalidInputLength (length : Nat)
  /-- `encrypt` with a key of a length other than 8 (R214, R235). -/
  | invalidKeyLength (length : Nat)
  deriving DecidableEq, Repr

end Sys2Proof
end

