-- ==== Sys2Proof/Config.lean ====
section
/-! DEFINITION. What the spec leaves open, as constants with no body: nothing in Lean can evaluate them, so a
statement about them holds whatever they are. -/

namespace Sys2Proof.Config

/-- FREE VALUE (log 1, safe): the sample the host presents at an edge for which nothing is lined up in
`State.host`; the inputs are "free inputs of every step" (R61). The argument is the counter `State.draws`. -/
opaque hostInput : Nat → PortIn

/-- FREE VALUE (log 5, safe): the data registers after an edge with `rst` = 1, "unspecified": each "is cleared, keeps its
old value or takes another value" (R260, R29, U2). The arguments are the counter `State.draws` and the data registers
before the edge, so that nothing is known of whether an old value is kept or erased. -/
opaque unspecData : Nat → DataRegisters → DataRegisters

/-- OPEN PARAMETER (R217, D12, U10; log 13, safe): the byte encoding of a password that holds a character
outside U+0020..U+007E. `Machine.encodePassword` applies it to such texts only. -/
opaque encodeOtherText : Text → List Byte

end Sys2Proof.Config
end

