-- ==== Sys2Proof/Syntax.lean ====
section
/-! DEFINITION. The instructions: one constructor per row of `spec/opcode_table.json` (R77). -/

namespace Sys2Proof

/-- The 31 rows of the opcode table: host commands, micro-operations, S-box LUT rows, and the datapath functions
and host procedures (which have no bits, R72). -/
inductive Instr where
  -- HOSTCMD rows (R66)
  /-- `cmd = 0b000` (R180). -/
  | nop
  /-- `cmd = 0b001`, `din` = Key (R182). -/
  | ldkey (key : BitVec 64)
  /-- `cmd = 0b010`, `din` = Block (R183). -/
  | ldblk (block : BitVec 64)
  /-- `cmd = 0b011` (R184). -/
  | start
  /-- `cmd[2] = 1`, `n = cmd[1:0]` (R185). -/
  | rsvd (n : BitVec 2)
  -- MICROOP rows (R70); the operand RND is implicit
  /-- PHASE = 0b001 (R186). -/
  | kspc1
  /-- PHASE = 0b010 (R187). -/
  | ksrot
  /-- PHASE = 0b011 (R188). -/
  | iperm
  /-- PHASE = 0b100 (R189). -/
  | round
  /-- PHASE = 0b101 (R190). -/
  | fperm
  -- SBOXLUT rows (R42): the LUT address below the box number
  /-- S1, LUT addresses `000rrcccc` (R132). -/
  | s1 (row : BitVec 2) (col : BitVec 4)
  /-- S2, LUT addresses `001rrcccc` (R133). -/
  | s2 (row : BitVec 2) (col : BitVec 4)
  /-- S3, LUT addresses `010rrcccc` (R134). -/
  | s3 (row : BitVec 2) (col : BitVec 4)
  /-- S4, LUT addresses `011rrcccc` (R135). -/
  | s4 (row : BitVec 2) (col : BitVec 4)
  /-- S5, LUT addresses `100rrcccc` (R136). -/
  | s5 (row : BitVec 2) (col : BitVec 4)
  /-- S6, LUT addresses `101rrcccc` (R137). -/
  | s6 (row : BitVec 2) (col : BitVec 4)
  /-- S7, LUT addresses `110rrcccc` (R138). -/
  | s7 (row : BitVec 2) (col : BitVec 4)
  /-- S8, LUT addresses `111rrcccc` (R139). -/
  | s8 (row : BitVec 2) (col : BitVec 4)
  -- FUNCTION rows (R72): datapath functions
  /-- `permute(T, W, v)` (R90). -/
  | permute (w : Nat) (table : List Nat) (v : BitVec w)
  /-- `rotl28(v, n)` (R112). -/
  | rotl28 (v : BitVec 28) (n : RotAmount)
  /-- `deriveSubkeys(key)` (R110). -/
  | deriveSubkeys (key : BitVec 64)
  /-- `substitute(boxIndex, x)` with `box = boxIndex - 1`, as in `addr[8:6]` (R42, R130). -/
  | substitute (box : Fin 8) (x : BitVec 6)
  /-- `roundFunction(rightHalf, subkey)` (R150). -/
  | roundFunction (rightHalf : BitVec 32) (subkey : BitVec 48)
  /-- `encryptBlock(plaintext, key)` (R170). -/
  | encryptBlock (plaintext key : BitVec 64)
  -- FUNCTION rows: host procedures
  /-- `bytesToWord(b)` (R210). -/
  | bytesToWord (b : Bytes8)
  /-- `encrypt(message, key)` with an 8-byte message (R211). -/
  | encrypt8 (message key : List Byte)
  /-- `encrypt(message, key)` with a 16-byte message (R212). -/
  | encrypt16 (message key : List Byte)
  /-- `encrypt(message, key)` with a message of any other length (R213). -/
  | encryptBadlength (message key : List Byte)
  /-- `mirror8(b)` (R215). -/
  | mirror8 (b : Byte)
  /-- `deriveKeyFromPassword(password)` (R216). -/
  | deriveKeyFromPassword (password : Text)
  /-- `encrypt(message, password)` (R218). -/
  | encryptWithPassword (message : List Byte) (password : Text)
  deriving DecidableEq, Repr

end Sys2Proof
end

