-- ==== Sys2Proof/WellFormed.lean ====
section
/-! DEFINITION. Which instruction terms the spec gives a form for. Operand ranges that the types already carry
(rotation amounts, box numbers, widths) need no check. -/

namespace Sys2Proof

/-- A permutation table for source width `w` is well formed when "every entry satisfies 1 ≤ T[i] ≤ W" (R92). -/
def tableInRange (w : Nat) (table : List Nat) : Bool :=
  table.all fun p => decide (1 ≤ p ∧ p ≤ w)

/-- `permute`'s operands: a table in range (R92) with at least one entry, the source not of width 0
("`bv(N)` … N > 0", `00_scope.md` §4.1). -/
def permuteOk (w : Nat) (table : List Nat) : Bool :=
  decide (0 < w) && !table.isEmpty && tableInRange w table

/-- The form checks of an instruction: `permute`'s table (R92); the message length that tells the three rows of
`encrypt(message, key)` apart (R211, R212, R213). -/
def Instr.WellFormed : Instr → Bool
  | .nop => true
  | .ldkey _ => true
  | .ldblk _ => true
  | .start => true
  | .rsvd _ => true
  | .kspc1 => true
  | .ksrot => true
  | .iperm => true
  | .round => true
  | .fperm => true
  | .s1 _ _ => true
  | .s2 _ _ => true
  | .s3 _ _ => true
  | .s4 _ _ => true
  | .s5 _ _ => true
  | .s6 _ _ => true
  | .s7 _ _ => true
  | .s8 _ _ => true
  | .permute w table _ => permuteOk w table
  | .rotl28 _ _ => true
  | .deriveSubkeys _ => true
  | .substitute _ _ => true
  | .roundFunction _ _ => true
  | .encryptBlock _ _ => true
  | .bytesToWord _ => true
  | .encrypt8 message _ => message.length == 8
  | .encrypt16 message _ => message.length == 16
  | .encryptBadlength message _ => message.length != 8 && message.length != 16
  | .mirror8 _ => true
  | .deriveKeyFromPassword _ => true
  | .encryptWithPassword _ _ => true

end Sys2Proof
end

