-- ==== Sys2Proof/Decode.lean ====
section
/-! DEFINITION. Decoding and encoding: the `cmd` port with `din` (R62, R66, R67), the PHASE codes (R70) and the
S-box LUT addresses (R42), after the rows of `opcode_table.json` (R77). -/

namespace Sys2Proof

/-! ## Fields -/

/-- The `cmd` field of a command sample. DESIGN CHOICE (log 7, safe): R62 gives a sample the fields `cmd` (3 bits)
and `din` (64 bits) and not their places in the 67 bits; here `cmd` is bits 2..0 and `din` bits 66..3. -/
def cmdField (w : BitVec 67) : BitVec 3 := w.extractLsb' 0 3

/-- The `din` field of a command sample (log 7). -/
def dinField (w : BitVec 67) : BitVec 64 := w.extractLsb' 3 64

/-- A command sample from its fields (log 7). -/
def commandWord (cmd : BitVec 3) (din : BitVec 64) : BitVec 67 := din ++ cmd

/-- What the ports `cmd` and `din` carry at an edge, as one command sample. -/
def PortIn.word (p : PortIn) : BitVec 67 := commandWord p.cmd p.din

/-- A LUT address `boxIndex - 1 ‖ row ‖ col` (R42). -/
def lutAddress (box : BitVec 3) (row : BitVec 2) (col : BitVec 4) : BitVec 9 := box ++ row ++ col

/-- `addr[8:6] = boxIndex - 1` (R42). -/
def lutBox (a : BitVec 9) : BitVec 3 := a.extractLsb' 6 3

/-- `addr[5:4] = row` (R42). -/
def lutRow (a : BitVec 9) : BitVec 2 := a.extractLsb' 4 2

/-- `addr[3:0] = col` (R42). -/
def lutCol (a : BitVec 9) : BitVec 4 := a.extractLsb' 0 4

/-- The PHASE codes of R70. -/
def Phase.code : Phase → BitVec 3
  | .idle => 0b000#3
  | .kspc1 => 0b001#3
  | .ksrot => 0b010#3
  | .iperm => 0b011#3
  | .round => 0b100#3
  | .fperm => 0b101#3

/-! ## Host command rows -/

/-- A HOSTCMD row of the opcode table: `cmd & mask == pattern` selects it (R77), `read` takes the operands. -/
structure HostRow where
  mask : BitVec 3
  pattern : BitVec 3
  read : BitVec 3 → BitVec 64 → Instr

/-- `cmd & mask == match` (R77). -/
def HostRow.selects (row : HostRow) (cmd : BitVec 3) : Bool := cmd &&& row.mask == row.pattern

/-- The five HOSTCMD rows, in the table's order: NOP, LDKEY, LDBLK, START, RSVD (R66). -/
def hostRows : List HostRow :=
  [ { mask := 0x7#3, pattern := 0x0#3, read := fun _ _ => .nop },
    { mask := 0x7#3, pattern := 0x1#3, read := fun _ din => .ldkey din },
    { mask := 0x7#3, pattern := 0x2#3, read := fun _ din => .ldblk din },
    { mask := 0x7#3, pattern := 0x3#3, read := fun _ _ => .start },
    { mask := 0x4#3, pattern := 0x4#3, read := fun cmd _ => .rsvd (cmd.extractLsb' 0 2) } ]

/-! ## Decoding -/

/-- Why a bit pattern is no instruction. -/
inductive DecodeError where
  /-- PHASE = 0b000: "none; commands are decoded" (R70). -/
  | idlePhase
  /-- PHASE = 0b110 or 0b111: unreachable (R28, R70). -/
  | unreachablePhase (code : BitVec 3)
  /-- No HOSTCMD row selects the code; raised for no code, since the rows cover all eight (R77). -/
  | noHostRow (cmd : BitVec 3)
  deriving DecidableEq, Repr

/-- The host command a sample of `cmd` and `din` presents (R66). -/
def decodeCommand (w : BitVec 67) : Except DecodeError Instr :=
  match hostRows.find? (fun row => row.selects (cmdField w)) with
  | some row => .ok (row.read (cmdField w) (dinField w))
  | none => .error (.noHostRow (cmdField w))

/-- The micro-operation a PHASE code selects (R70). -/
def decodePhase (p : BitVec 3) : Except DecodeError Instr :=
  if p = 0b000#3 then .error .idlePhase
  else if p = 0b001#3 then .ok .kspc1
  else if p = 0b010#3 then .ok .ksrot
  else if p = 0b011#3 then .ok .iperm
  else if p = 0b100#3 then .ok .round
  else if p = 0b101#3 then .ok .fperm
  else .error (.unreachablePhase p)

/-- The look-up in box `box + 1` (R42). -/
def lutInstr (box : BitVec 3) (row : BitVec 2) (col : BitVec 4) : Instr :=
  if box = 0#3 then .s1 row col
  else if box = 1#3 then .s2 row col
  else if box = 2#3 then .s3 row col
  else if box = 3#3 then .s4 row col
  else if box = 4#3 then .s5 row col
  else if box = 5#3 then .s6 row col
  else if box = 6#3 then .s7 row col
  else .s8 row col

/-- The S-box look-up a LUT address selects; all 512 addresses are populated (R42). -/
def decodeLut (a : BitVec 9) : Instr := lutInstr (lutBox a) (lutRow a) (lutCol a)

/-- The decoder, over the three kinds of bit pattern of the opcode table. -/
def decode : CodeWord → Except DecodeError Instr
  | .command w => decodeCommand w
  | .phase p => decodePhase p
  | .lut a => .ok (decodeLut a)

/-- The instruction read from table bits `w` (bit 0 least significant) of an `nbits`-bit row. A 9-bit row, 16 bits in
whole bytes, is a LUT address (R42); every other is a command sample, the only bits an instruction is ever decoded
from (R66). The MICROOP rows have the same 3-bit words as host commands and are read as those (log 8). -/
def decodeTableWord (nbits w : Nat) : Option Instr :=
  if nbits = 9 ∨ nbits = 16 then
    if w < 512 then some (decodeLut (BitVec.ofNat 9 w)) else none
  else if w < 2 ^ 67 then (decode (.command (BitVec.ofNat 67 w))).toOption
  else none

/-! ## Encoding -/

/-- The bits of an instruction; `none` for the FUNCTION rows, whose "`encoding` is the empty string" (R72).
`din` is a don't-care of NOP, START and the reserved codes (R62); the encoder gives zeros. -/
def encode : Instr → Option CodeWord
  | .nop => some (.command (commandWord 0b000#3 0#64))
  | .ldkey key => some (.command (commandWord 0b001#3 key))
  | .ldblk block => some (.command (commandWord 0b010#3 block))
  | .start => some (.command (commandWord 0b011#3 0#64))
  | .rsvd n => some (.command (commandWord (1#1 ++ n) 0#64))
  | .kspc1 => some (.phase 0b001#3)
  | .ksrot => some (.phase 0b010#3)
  | .iperm => some (.phase 0b011#3)
  | .round => some (.phase 0b100#3)
  | .fperm => some (.phase 0b101#3)
  | .s1 row col => some (.lut (lutAddress 0b000#3 row col))
  | .s2 row col => some (.lut (lutAddress 0b001#3 row col))
  | .s3 row col => some (.lut (lutAddress 0b010#3 row col))
  | .s4 row col => some (.lut (lutAddress 0b011#3 row col))
  | .s5 row col => some (.lut (lutAddress 0b100#3 row col))
  | .s6 row col => some (.lut (lutAddress 0b101#3 row col))
  | .s7 row col => some (.lut (lutAddress 0b110#3 row col))
  | .s8 row col => some (.lut (lutAddress 0b111#3 row col))
  | .permute _ _ _ => none
  | .rotl28 _ _ => none
  | .deriveSubkeys _ => none
  | .substitute _ _ => none
  | .roundFunction _ _ => none
  | .encryptBlock _ _ => none
  | .bytesToWord _ => none
  | .encrypt8 _ _ => none
  | .encrypt16 _ _ => none
  | .encryptBadlength _ _ => none
  | .mirror8 _ => none
  | .deriveKeyFromPassword _ => none
  | .encryptWithPassword _ _ => none

end Sys2Proof
end

