-- ==== Sys2Proof/Machine/State.lean ====
section
/-! DEFINITION. The state of one engine (R10), the reasons a step can stop, and the state after reset (R29). -/

namespace Sys2Proof.Machine

/-- Where the value of a FUNCTION or SBOXLUT row stands when `exec` evaluates that row alone. The engine has no such
register and nothing in the engine reads it (DESIGN CHOICE, log 3, safe). -/
inductive FnResult where
  /-- Nothing evaluated yet. -/
  | none
  /-- The result of `permute`: as wide as its table is long (R90). -/
  | bits (n : Nat) (v : BitVec n)
  /-- The result of `rotl28` (R112). -/
  | half (v : BitVec 28)
  /-- The result of `deriveSubkeys` (R110). -/
  | subkeys (k : Vector (BitVec 48) 16)
  /-- The result of an S-box look-up (R130). -/
  | nibble (v : BitVec 4)
  /-- The result of `roundFunction` (R150). -/
  | word32 (v : BitVec 32)
  /-- A Block or a Key (R170, R210, R216). -/
  | block (v : BitVec 64)
  /-- The result of `mirror8` (R215). -/
  | byte (v : BitVec 8)
  /-- The byte sequence `encrypt` returns (R211, R212, R218). -/
  | bytes (b : List (BitVec 8))
  /-- The error a host procedure returns (R236). -/
  | error (e : HostError)
  deriving DecidableEq, Repr

/-- "The complete state of one engine" (R10), then three fields of the model's own. -/
structure State where
  /-- KEY (R11). -/
  key : BitVec 64
  /-- DIN (R12). -/
  din : BitVec 64
  /-- C (R13). -/
  c : BitVec 28
  /-- D (R13). -/
  d : BitVec 28
  /-- SK[1..16]; index `i` holds SK[i+1] (R14). -/
  sk : Vector (BitVec 48) 16
  /-- L (R15). -/
  l : BitVec 32
  /-- R (R15). -/
  r : BitVec 32
  /-- DOUT (R16). -/
  dout : BitVec 64
  /-- PHASE (R20). -/
  phase : Phase
  /-- RND, a 5-bit register that takes 0..16 only (R21, R28; log 10). -/
  rnd : Fin 17
  /-- KV (R17). -/
  kv : Bool
  /-- BV (R18). -/
  bv : Bool
  /-- DONE (R19). -/
  done : Bool
  /-- ERR[2:0]: UNLOADED, BUSYCMD, ILLCMD (R22). -/
  err : BitVec 3
  /-- The MODEL's own (log 1): the samples the host has lined up, one per coming edge (R61, R76). -/
  host : List PortIn
  /-- The MODEL's own (log 2): how many times a free value has been drawn. -/
  draws : Nat
  /-- The MODEL's own (log 3): the value of the last FUNCTION or SBOXLUT row evaluated by `exec`. -/
  fnOut : FnResult
  deriving DecidableEq, Repr

/-- The reasons a step or an instruction stops with a fault. -/
inductive Fault where
  /-- Raised by `permute` with a table that is not well formed: "fail fast (panic/fatal) rather than silently
  truncating" (R92, R231, U5; log 14). Safe: the model stops where the spec gives no meaning. -/
  | malformedTable
  /-- Raised by KSROT and ROUND with RND = 0, outside 1..16: there is no SK entry and no rotation amount for it, and no
  reachable state has it (R14, R28; log 10). Safe: the model stops where the spec gives no step. -/
  | rndOutOfRange
  deriving DecidableEq, Repr

/-- The reasons a step or an instruction is refused. -/
inductive Refusal where
  /-- Raised by an arm of `exec` that has no meaning yet. Safe: the model stops. No arm raises it. -/
  | notModelled (mnemonic : String)
  /-- Raised by a step whose command sample no HOSTCMD row selects. Safe: the model stops. No sample raises it, since
  the rows cover all eight codes (R77). -/
  | undecodable (e : DecodeError)
  deriving DecidableEq, Repr

/-- The machine right after reset (R29). PHASE, RND, KV, BV, DONE, ERR are the spec's; the data registers, which R29
leaves unspecified, are zero (DESIGN CHOICE, log 4, unsafe); `host`, `draws`, `fnOut` are the model's own (logs 1–3). -/
def State.reset : State where
  key := 0#64
  din := 0#64
  c := 0#28
  d := 0#28
  sk := Vector.replicate 16 0#48
  l := 0#32
  r := 0#32
  dout := 0#64
  phase := .idle
  rnd := 0
  kv := false
  bv := false
  done := false
  err := 0b000#3
  host := []
  draws := 0
  fnOut := .none

end Sys2Proof.Machine
end

