-- ==== Sys2Proof/Machine/Operands.lean ====
section
/-! DEFINITION. Operand assembly: every place where a value is cut out of, or put together into, a wider one. All of
it is MSB-first (R74). -/

namespace Sys2Proof.Machine

/-- `b[0] ‖ b[1] ‖ … ‖ b[7]`: byte 0 most significant (R44, R210). -/
def bytesToWord (b : Bytes8) : BitVec 64 :=
  b.b0 ++ b.b1 ++ b.b2 ++ b.b3 ++ b.b4 ++ b.b5 ++ b.b6 ++ b.b7

/-- The bytes `v[63:56], v[55:48], …, v[7:0]` (R44, R210). -/
def wordToBytes (v : BitVec 64) : Bytes8 where
  b0 := v.extractLsb' 56 8
  b1 := v.extractLsb' 48 8
  b2 := v.extractLsb' 40 8
  b3 := v.extractLsb' 32 8
  b4 := v.extractLsb' 24 8
  b5 := v.extractLsb' 16 8
  b6 := v.extractLsb' 8 8
  b7 := v.extractLsb' 0 8

/-- Eight bytes as a sequence, first byte first. -/
def bytesToList (b : Bytes8) : List Byte := [b.b0, b.b1, b.b2, b.b3, b.b4, b.b5, b.b6, b.b7]

/-- A byte sequence of length 8 as eight bytes; no other length has a value (R210). -/
def listToBytes : List Byte → Option Bytes8
  | [b0, b1, b2, b3, b4, b5, b6, b7] => some ⟨b0, b1, b2, b3, b4, b5, b6, b7⟩
  | _ => none

/-- C and D from the PC-1 output `cd`: `cd[55:28]` and `cd[27:0]` (R111). -/
def splitKeyHalves (cd : BitVec 56) : KeyHalf × KeyHalf := (cd.extractLsb' 28 28, cd.extractLsb' 0 28)

/-- The PC-2 input `C ‖ D`, C high (R114). -/
def joinKeyHalves (cd : KeyHalf × KeyHalf) : BitVec 56 := cd.1 ++ cd.2

/-- L₀ and R₀ from the IP output: `x[63:32]` and `x[31:0]` (R170). -/
def splitDataHalves (x : BitVec 64) : DataHalf × DataHalf := (x.extractLsb' 32 32, x.extractLsb' 0 32)

/-- The pre-output `R ‖ L`: "right half first, left half second" (R170, R190). -/
def preOutput (lr : DataHalf × DataHalf) : BitVec 64 := lr.2 ++ lr.1

/-- Group `g + 1` of the 48-bit round value, `x[53-6(g+1) : 48-6(g+1)]`: most significant group first (R152). -/
def sixBitGroup (x : BitVec 48) (g : Fin 8) : BitVec 6 := x.extractLsb' (42 - 6 * g.val) 6

/-- The row `a ‖ f = x[5] ‖ x[0]` of a 6-bit group `abcdef` (R131). -/
def sboxRow (x : BitVec 6) : BitVec 2 := x.extractLsb' 5 1 ++ x.extractLsb' 0 1

/-- The column `bcde = x[4:1]` of a 6-bit group `abcdef` (R131). -/
def sboxCol (x : BitVec 6) : BitVec 4 := x.extractLsb' 1 4

/-- `s[1] ‖ s[2] ‖ … ‖ s[8]`: "concatenate the eight 4-bit outputs MSB-first" (R153). -/
def joinNibbles (s : Fin 8 → BitVec 4) : BitVec 32 :=
  s 0 ++ s 1 ++ s 2 ++ s 3 ++ s 4 ++ s 5 ++ s 6 ++ s 7

/-- The index into SK of a value of RND: entry `i` holds SK[i+1]; RND = 0 has none (R14, R21). -/
def roundIndex (rnd : RoundNumber) : Option (Fin 16) :=
  if h : 1 ≤ rnd.val then some ⟨rnd.val - 1, by omega⟩ else none

end Sys2Proof.Machine
end

