-- ==== Sys2Proof/Machine/Datapath.lean ====
section
/-! DEFINITION. The datapath functions: total, pure, deterministic functions of their arguments (R9, R159). The
micro-operations and the FUNCTION rows both call them. -/

namespace Sys2Proof.Machine

/-- `permute(T, W, v)`: output bit `i`, counted from the most significant, is `v[W - T[i]]` (R90). -/
def permute {w n : Nat} (table : PermTable w n) (v : BitVec w) : BitVec n :=
  (BitVec.ofBoolListBE (table.entries.map fun p => v.getLsbD (w - p))).setWidth n

/-- The number of bits of a rotation amount (R112). -/
def rotBits : RotAmount → Nat
  | .one => 1
  | .two => 2

/-- `rotl28(v, n) = ((v << n) | (v >> (28 - n)))` on 28 bits (R112). -/
def rotl28 (v : BitVec 28) (n : RotAmount) : BitVec 28 := (v <<< rotBits n) ||| (v >>> (28 - rotBits n))

/-- Steps 1 and 2 of `deriveSubkeys`: C[0] and D[0] (R111). -/
def initialKeyHalves (key : BitVec 64) : KeyHalf × KeyHalf := splitKeyHalves (permute tablePC1 key)

/-- The rotation of both halves in round `round`, each within its own 28 bits (R112, R114). -/
def rotateKeyHalves (round : Nat) (cd : KeyHalf × KeyHalf) : KeyHalf × KeyHalf :=
  (rotl28 cd.1 (shiftAmount round), rotl28 cd.2 (shiftAmount round))

/-- The subkey of the rotated halves: `permute(PC2, 56, C ‖ D)` (R114). -/
def compressKeyHalves (cd : KeyHalf × KeyHalf) : Subkey := permute tablePC2 (joinKeyHalves cd)

/-- C[i] and D[i]: the rotation is cumulative (R114). -/
def keyHalves (key : BitVec 64) : Nat → KeyHalf × KeyHalf
  | 0 => initialKeyHalves key
  | i + 1 => rotateKeyHalves (i + 1) (keyHalves key i)

/-- `deriveSubkeys(key) = (K[1], …, K[16])`; index `i` holds K[i+1] (R110). -/
def deriveSubkeys (key : BitVec 64) : SubkeyFile :=
  Vector.ofFn fun i : Fin 16 => compressKeyHalves (keyHalves key (i.val + 1))

/-- `substitute(box + 1, x)` (R130). -/
def substitute (box : Fin 8) (x : BitVec 6) : BitVec 4 := (sbox box).entry (sboxRow x) (sboxCol x)

/-- Steps 3 and 4 of the round function: eight lanes, lane g reads group g and box g only (R152, R153, R156). -/
def substituteGroups (x : BitVec 48) : BitVec 32 := joinNibbles fun g => substitute g (sixBitGroup x g)

/-- `roundFunction(rightHalf, subkey)`: expansion, xor, S-boxes, P (R150). -/
def roundFunction (rightHalf : BitVec 32) (subkey : BitVec 48) : BitVec 32 :=
  permute tableP (substituteGroups (permute tableE rightHalf ^^^ subkey))

/-- Step 2 of `encryptBlock`: L[0] and R[0] (R170). -/
def initialDataHalves (plaintext : BitVec 64) : DataHalf × DataHalf := splitDataHalves (permute tableIP plaintext)

/-- One round: `L[i] = R[i-1]`, `R[i] = L[i-1] xor roundFunction(R[i-1], K[i])`, both from the old halves (R170). -/
def feistelRound (lr : DataHalf × DataHalf) (subkey : Subkey) : DataHalf × DataHalf :=
  (lr.2, lr.1 ^^^ roundFunction lr.2 subkey)

/-- L[i] and R[i] of `encryptBlock(plaintext, key)`: the first `i` of the sixteen rounds (R170). -/
def dataHalves (plaintext key : BitVec 64) (i : Nat) : DataHalf × DataHalf :=
  ((deriveSubkeys key).toList.take i).foldl feistelRound (initialDataHalves plaintext)

/-- Steps 4 and 5 of `encryptBlock`: swap and FP (R170, R190). -/
def finalBlock (lr : DataHalf × DataHalf) : BitVec 64 := permute tableFP (preOutput lr)

/-- `encryptBlock(plaintext, key)` (R170). -/
def encryptBlock (plaintext key : BitVec 64) : BitVec 64 := finalBlock (dataHalves plaintext key 16)

end Sys2Proof.Machine
end

