-- ==== Sys2Proof/Machine/HostProc.lean ====
section
/-! DEFINITION. The host-side procedures of `45_host_procedures.md`: pure functions over `encryptBlock`. "None touches
engine state except through the commands"; an error is returned and no command is issued (R8, R220, R236). -/

namespace Sys2Proof.Machine

/-- What `encrypt(message, key)` asks of the engine once its operands are in order: one block, or two under one key. -/
inductive EncryptRequest where
  | one (key m : BitVec 64)
  | two (key m0 m1 : BitVec 64)
  deriving DecidableEq, Repr

/-- The checks of `encrypt(message, key)`, "done by the host before the first command" (R220): the key length before the
message length (R214, R241), then 8 bytes are one block (R211), 16 bytes two (R212), any other length fails (R213). -/
def encryptRequest (message key : List Byte) : Except HostError EncryptRequest :=
  match listToBytes key with
  | none => .error (.invalidKeyLength key.length)
  | some k =>
    match listToBytes message with
    | some m => .ok (.one (bytesToWord k) (bytesToWord m))
    | none =>
      match listToBytes (message.take 8), listToBytes (message.drop 8) with
      | some m0, some m1 => .ok (.two (bytesToWord k) (bytesToWord m0) (bytesToWord m1))
      | _, _ => .error (.invalidInputLength message.length)

/-- A ciphertext as bytes (R211). -/
def blockBytes (c : BitVec 64) : List Byte := bytesToList (wordToBytes c)

/-- Two ciphertexts as bytes, the first first (R212). -/
def twoBlockBytes (c : BitVec 64 × BitVec 64) : List Byte := blockBytes c.1 ++ blockBytes c.2

/-- The result of a request: blocks encrypted independently, no chaining (R211, R212). -/
def requestBytes : EncryptRequest → List Byte
  | .one key m => blockBytes (encryptBlock m key)
  | .two key m0 m1 => twoBlockBytes (encryptBlock m0 key, encryptBlock m1 key)

/-- `encrypt(message, key)` (R211 to R214). -/
def encryptBytes (message key : List Byte) : Except HostError (List Byte) :=
  match encryptRequest message key with
  | .ok request => .ok (requestBytes request)
  | .error e => .error e

/-- `mirror8(b)[j] = b[7-j]` (R215). -/
def mirror8 (b : BitVec 8) : BitVec 8 :=
  BitVec.ofBoolListBE
    [b.getLsbD 0, b.getLsbD 1, b.getLsbD 2, b.getLsbD 3, b.getLsbD 4, b.getLsbD 5, b.getLsbD 6, b.getLsbD 7]

/-- MIR, `MIR[8q + r] = 8q + 8 - r`: the bit mirror of all 8 bytes of a word, as a table of the host's; the engine has no
such permuter (R219). -/
def tableMIR : PermTable 64 64 where
  entries :=
    [ 8,  7,  6,  5,  4,  3,  2,  1,
     16, 15, 14, 13, 12, 11, 10,  9,
     24, 23, 22, 21, 20, 19, 18, 17,
     32, 31, 30, 29, 28, 27, 26, 25,
     40, 39, 38, 37, 36, 35, 34, 33,
     48, 47, 46, 45, 44, 43, 42, 41,
     56, 55, 54, 53, 52, 51, 50, 49,
     64, 63, 62, 61, 60, 59, 58, 57]
  length_eq := by decide
  inRange := by decide

/-- The characters U+0020 to U+007E, whose encoding R217 fixes. -/
def isPrintableAscii (ch : Char) : Bool := decide (0x20 ≤ ch.toNat ∧ ch.toNat ≤ 0x7E)

/-- `encodePassword`: one byte per character, the character's code, for a text of U+0020..U+007E; any other text is
the open parameter (R217, D12; log 13). -/
def encodePassword (password : Text) : List Byte :=
  if password.all isPrintableAscii then password.map fun ch => BitVec.ofNat 8 ch.toNat
  else Config.encodeOtherText password

/-- Key byte `j` of an encoded password: the mirrored byte, or zero past its end (R216). -/
def passwordKeyByte (p : List Byte) (j : Nat) : Byte :=
  match p[j]? with
  | some b => mirror8 b
  | none => 0x00#8

/-- The key of an encoded password: its first 8 bytes, each mirrored, zero padded (R216). -/
def keyFromPasswordBytes (p : List Byte) : BitVec 64 :=
  bytesToWord ⟨passwordKeyByte p 0, passwordKeyByte p 1, passwordKeyByte p 2, passwordKeyByte p 3,
    passwordKeyByte p 4, passwordKeyByte p 5, passwordKeyByte p 6, passwordKeyByte p 7⟩

/-- `deriveKeyFromPassword(password)` (R216). -/
def deriveKeyFromPassword (password : Text) : BitVec 64 := keyFromPasswordBytes (encodePassword password)

/-- The bytes of the derived key, which `encrypt` takes as its key (R218). -/
def passwordKeyBytes (password : Text) : List Byte := bytesToList (wordToBytes (deriveKeyFromPassword password))

/-- `encrypt(message, password)` (R218). -/
def encryptWithPassword (message : List Byte) (password : Text) : Except HostError (List Byte) :=
  encryptBytes message (passwordKeyBytes password)

end Sys2Proof.Machine
end

