-- ==== Sys2Proof/Machine/Flags.lean ====
section
/-! DEFINITION. The flags and what the host sees of them: the ERR bits (R22, R236), BUSY (R23), the output ports
(R64) and the bundle STATUS (R24). -/

namespace Sys2Proof.Machine

/-- ILLCMD is `ERR[0]` (R22, R232). -/
def illcmdBit : BitVec 3 := 0b001#3

/-- BUSYCMD is `ERR[1]` (R22, R233). -/
def busycmdBit : BitVec 3 := 0b010#3

/-- UNLOADED is `ERR[2]` (R22, R234). -/
def unloadedBit : BitVec 3 := 0b100#3

/-- The port `dout` (R64). -/
def doutPort (s : State) : BitVec 64 := s.dout

/-- The port `busy`: `PHASE != 0b000` (R23, R64). -/
def busyPort (s : State) : Bool := s.phase.code != 0b000#3

/-- The port `done` (R64). -/
def donePort (s : State) : Bool := s.done

/-- The port `err[2:0]` (R64). -/
def errPort (s : State) : BitVec 3 := s.err

/-- `STATUS = err[2] ‖ err[1] ‖ err[0] ‖ done ‖ busy` (R24). -/
def statusBundle (s : State) : BitVec 5 :=
  errPort s ++ BitVec.ofBool (donePort s) ++ BitVec.ofBool (busyPort s)

end Sys2Proof.Machine
end

