-- ==== Sys2Proof/Machine/Ops.lean ====
section
/-! DEFINITION. The named operations on the state that the meanings share. -/

namespace Sys2Proof.Machine

/-- Taking an engine fault: "set the ERR bit and change nothing else"; no saved state, no handler, no return
(R8, R242, R243). -/
def raiseFault (bit : BitVec 3) (s : State) : State := { s with err := s.err ||| bit }

/-- A command that is accepted only while PHASE = IDLE; otherwise the fault BUSYCMD (R181, R233). -/
def whenIdle (accepted : State → State) (s : State) : State :=
  match s.phase with
  | .idle => accepted s
  | .kspc1 => raiseFault busycmdBit s
  | .ksrot => raiseFault busycmdBit s
  | .iperm => raiseFault busycmdBit s
  | .round => raiseFault busycmdBit s
  | .fperm => raiseFault busycmdBit s

/-- `KEY <- din ; KV <- 1 ; DONE <- 0` (R182). -/
def loadKey (key : BitVec 64) (s : State) : State := { s with key := key, kv := true, done := false }

/-- `DIN <- din ; BV <- 1 ; DONE <- 0` (R183). -/
def loadBlock (block : BitVec 64) (s : State) : State := { s with din := block, bv := true, done := false }

/-- START in IDLE: begin an operation if KV = 1 and BV = 1, else the fault UNLOADED (R184, R234). -/
def beginOperation (s : State) : State :=
  if s.kv && s.bv then { s with phase := .kspc1, done := false } else raiseFault unloadedBit s

/-- Write of the halves C and D. -/
def setKeyHalves (cd : KeyHalf × KeyHalf) (s : State) : State := { s with c := cd.1, d := cd.2 }

/-- Write of the halves L and R. -/
def setDataHalves (lr : DataHalf × DataHalf) (s : State) : State := { s with l := lr.1, r := lr.2 }

/-- Write of SK[i+1]; the other fifteen entries keep their values (R14, R187). -/
def writeSubkey (i : Fin 16) (k : Subkey) (s : State) : State := { s with sk := s.sk.set i.val k i.isLt }

/-- Read of SK[i+1] (R14). -/
def readSubkey (i : Fin 16) (s : State) : Subkey := s.sk[i.val]

/-- `RND <- 1 ; PHASE <- loop`: the entry of a sixteen-round phase (R186, R188). -/
def enterRounds (loop : Phase) (s : State) : State := { s with rnd := 1, phase := loop }

/-- `if RND < 16 then RND <- RND + 1 else RND <- 0 ; PHASE <- after` (R187, R189; R21). DEDUCED (log 21, safe): R159 says
that RND takes only the values 1 to 16 and is set to 1 otherwise; the model follows the pseudocode of the rules R159
itself cites. -/
def advanceRound (after : Phase) (s : State) : State :=
  if s.rnd < 16 then { s with rnd := s.rnd + 1 } else { s with rnd := 0, phase := after }

/-- A round micro-operation: what `body` does for the round RND names; there is none for RND = 0 (R28; log 10). -/
def inRound (body : Fin 16 → State → State) (s : State) : Host.Outcome State Fault Refusal :=
  match roundIndex s.rnd with
  | some i => .next (body i s)
  | none => .fault (.rndOutOfRange)

/-- Delivery of the value of a FUNCTION or SBOXLUT row (log 3). -/
def deliver (v : FnResult) (s : State) : State := { s with fnOut := v }

/-- Delivery of what a byte-level host procedure returns: bytes or an error (R230, R236). -/
def deliverBytes (v : Except HostError (List Byte)) (s : State) : State :=
  match v with
  | .ok b => deliver (.bytes b) s
  | .error e => deliver (.error e) s

/-- The data registers, read together. -/
def dataRegisters (s : State) : DataRegisters where
  key := s.key
  din := s.din
  c := s.c
  d := s.d
  sk := s.sk
  l := s.l
  r := s.r
  dout := s.dout

/-- Write of all the data registers. -/
def setDataRegisters (v : DataRegisters) (s : State) : State :=
  { s with key := v.key, din := v.din, c := v.c, d := v.d, sk := v.sk, l := v.l, r := v.r, dout := v.dout }

/-- The control part of the reset rule: control state and flags cleared (R260, R29). -/
def clearControl (s : State) : State :=
  { s with phase := .idle, rnd := 0, kv := false, bv := false, done := false, err := 0b000#3 }

/-- The reset rule: control state and flags cleared, data registers unspecified (R260, R29). DESIGN CHOICE (log 5, safe):
the data registers take a free value that may depend on all of them as they were, so a register may have been cleared,
kept or changed; it does not depend on the control state, the flags, ERR (which no rule reads, R22) or the sample. -/
def resetEdge (s : State) : State :=
  { setDataRegisters (Config.unspecData s.draws (dataRegisters s)) (clearControl s) with draws := s.draws + 1 }

/-- The sample on the input ports at the next edge: the first the host has lined up, else a free value (R61; log 1). -/
def samplePorts (s : State) : PortIn :=
  match s.host with
  | p :: _ => p
  | [] => Config.hostInput s.draws

/-- The state once that sample is taken (logs 1, 2). -/
def takeSample (s : State) : State :=
  match s.host with
  | _ :: rest => { s with host := rest }
  | [] => { s with draws := s.draws + 1 }

/-- One outcome after another: what `f` does in the state reached, or the stop. -/
def andThen (o : Host.Outcome State Fault Refusal) (f : State → Host.Outcome State Fault Refusal) :
    Host.Outcome State Fault Refusal :=
  match o with
  | .next s => f s
  | .fault e => .fault e
  | .refused e => .refused e

end Sys2Proof.Machine
end

