-- ==== Sys2Proof/Machine/Function.lean ====
section
/-! DEFINITION. The FUNCTION rows: one datapath function or host procedure evaluated alone. No engine register is
touched; the value is delivered in the model's own result field (R9, R72; log 3). -/

namespace Sys2Proof.Machine

/-- `permute` with a table given as an operand: refused, never truncated, when the table is not well formed (R90, R92;
log 14). -/
def execPermute (w : Nat) (table : List Nat) (v : BitVec w) (s : State) : Host.Outcome State Fault Refusal :=
  if h : tableInRange w table = true then
    .next (deliver (.bits table.length (permute ⟨table, rfl, h⟩ v)) s)
  else .fault .malformedTable

/-- `rotl28` (R112). -/
def execRotl28 (v : BitVec 28) (n : RotAmount) (s : State) : Host.Outcome State Fault Refusal :=
  .next (deliver (.half (rotl28 v n)) s)

/-- `deriveSubkeys` (R110). -/
def execDeriveSubkeys (key : BitVec 64) (s : State) : Host.Outcome State Fault Refusal :=
  .next (deliver (.subkeys (deriveSubkeys key)) s)

/-- `substitute` (R130). -/
def execSubstitute (box : Fin 8) (x : BitVec 6) (s : State) : Host.Outcome State Fault Refusal :=
  .next (deliver (.nibble (substitute box x)) s)

/-- `roundFunction` (R150). -/
def execRoundFunction (rightHalf : BitVec 32) (subkey : BitVec 48) (s : State) : Host.Outcome State Fault Refusal :=
  .next (deliver (.word32 (roundFunction rightHalf subkey)) s)

/-- `encryptBlock` (R170). -/
def execEncryptBlock (plaintext key : BitVec 64) (s : State) : Host.Outcome State Fault Refusal :=
  .next (deliver (.block (encryptBlock plaintext key)) s)

/-- `bytesToWord` (R210). -/
def execBytesToWord (b : Bytes8) (s : State) : Host.Outcome State Fault Refusal :=
  .next (deliver (.block (bytesToWord b)) s)

/-- `encrypt(message, key)`, 8-byte message (R211, R214). -/
def execEncrypt8 (message key : List Byte) (s : State) : Host.Outcome State Fault Refusal :=
  .next (deliverBytes (encryptBytes message key) s)

/-- `encrypt(message, key)`, 16-byte message (R212, R214). -/
def execEncrypt16 (message key : List Byte) (s : State) : Host.Outcome State Fault Refusal :=
  .next (deliverBytes (encryptBytes message key) s)

/-- `encrypt(message, key)`, any other message length: the error is returned, no command is issued (R213, R230). -/
def execEncryptBadlength (message key : List Byte) (s : State) : Host.Outcome State Fault Refusal :=
  .next (deliverBytes (encryptBytes message key) s)

/-- `mirror8` (R215). -/
def execMirror8 (b : Byte) (s : State) : Host.Outcome State Fault Refusal := .next (deliver (.byte (mirror8 b)) s)

/-- `deriveKeyFromPassword` (R216). -/
def execDeriveKeyFromPassword (password : Text) (s : State) : Host.Outcome State Fault Refusal :=
  .next (deliver (.block (deriveKeyFromPassword password)) s)

/-- `encrypt(message, password)` (R218). -/
def execEncryptWithPassword (message : List Byte) (password : Text) (s : State) :
    Host.Outcome State Fault Refusal :=
  .next (deliverBytes (encryptWithPassword message password) s)

end Sys2Proof.Machine
end

