-- ==== Sys2Proof/Machine/HostCmd.lean ====
section
/-! DEFINITION. The host commands (R180–R185): the command rule alone; the micro-operation of the same edge is the
edge's own part (`Machine/Edge.lean`, R176). -/

namespace Sys2Proof.Machine

/-- NOP: no assignment, in every phase (R180). -/
def execNop (s : State) : Host.Outcome State Fault Refusal := .next s

/-- LDKEY (R182; R181 while busy). -/
def execLdkey (key : BitVec 64) (s : State) : Host.Outcome State Fault Refusal := .next (whenIdle (loadKey key) s)

/-- LDBLK (R183; R181 while busy). -/
def execLdblk (block : BitVec 64) (s : State) : Host.Outcome State Fault Refusal :=
  .next (whenIdle (loadBlock block) s)

/-- START (R184; R181 while busy). -/
def execStart (s : State) : Host.Outcome State Fault Refusal := .next (whenIdle beginOperation s)

/-- A reserved code: ILLCMD in every phase; `cmd[1:0]` is ignored (R185, R232). -/
def execRsvd (_n : BitVec 2) (s : State) : Host.Outcome State Fault Refusal := .next (raiseFault illcmdBit s)

end Sys2Proof.Machine
end

