-- ==== Sys2Proof/Machine/MicroOp.lean ====
section
/-! DEFINITION. The micro-operations (R186–R190). PHASE selects which one an edge executes (R70, `Machine/Edge.lean`);
the meaning itself is the rule's assignments and does not test PHASE again (log 16). -/

namespace Sys2Proof.Machine

/-- KSPC1: `C, D <- halves of permute(PC1, 64, KEY) ; RND <- 1 ; PHASE <- KSROT` (R186). -/
def execKspc1 (s : State) : Host.Outcome State Fault Refusal :=
  .next (enterRounds .ksrot (setKeyHalves (initialKeyHalves s.key) s))

/-- KSROT for the round `i + 1`: both halves rotated, SK[i+1] from the rotated halves of this same edge (R187). -/
def keyRound (i : Fin 16) (s : State) : State :=
  let cd := rotateKeyHalves (i.val + 1) (s.c, s.d)
  advanceRound .iperm (writeSubkey i (compressKeyHalves cd) (setKeyHalves cd s))

/-- KSROT (R187). -/
def execKsrot (s : State) : Host.Outcome State Fault Refusal := inRound keyRound s

/-- IPERM: `L, R <- halves of permute(IP, 64, DIN) ; RND <- 1 ; PHASE <- ROUND` (R188). -/
def execIperm (s : State) : Host.Outcome State Fault Refusal :=
  .next (enterRounds .round (setDataHalves (initialDataHalves s.din) s))

/-- ROUND for the round `i + 1`: one Feistel round with SK[i+1] (R189). -/
def dataRound (i : Fin 16) (s : State) : State :=
  advanceRound .fperm (setDataHalves (feistelRound (s.l, s.r) (readSubkey i s)) s)

/-- ROUND (R189). -/
def execRound (s : State) : Host.Outcome State Fault Refusal := inRound dataRound s

/-- FPERM: `DOUT <- permute(FP, 64, R ‖ L) ; DONE <- 1 ; PHASE <- IDLE` (R190). -/
def execFperm (s : State) : Host.Outcome State Fault Refusal :=
  .next { s with dout := finalBlock (s.l, s.r), done := true, phase := .idle }

end Sys2Proof.Machine
end

