-- ==== Sys2Proof/Machine/SboxLut.lean ====
section
/-! DEFINITION. The SBOXLUT rows: the 4-bit content of one LUT address (R42, R130, R132–R139). A LUT "has no state and
no write port" (R143): only the model's own result field is written (log 3). -/

namespace Sys2Proof.Machine

/-- The content of LUT address `box ‖ row ‖ col` (R42). -/
def lutContent (box : Fin 8) (row : BitVec 2) (col : BitVec 4) : BitVec 4 := (sbox box).entry row col

/-- S1 (R132). -/
def execS1 (row : BitVec 2) (col : BitVec 4) (s : State) : Host.Outcome State Fault Refusal :=
  .next (deliver (.nibble (lutContent 0 row col)) s)

/-- S2 (R133). -/
def execS2 (row : BitVec 2) (col : BitVec 4) (s : State) : Host.Outcome State Fault Refusal :=
  .next (deliver (.nibble (lutContent 1 row col)) s)

/-- S3 (R134). -/
def execS3 (row : BitVec 2) (col : BitVec 4) (s : State) : Host.Outcome State Fault Refusal :=
  .next (deliver (.nibble (lutContent 2 row col)) s)

/-- S4 (R135). -/
def execS4 (row : BitVec 2) (col : BitVec 4) (s : State) : Host.Outcome State Fault Refusal :=
  .next (deliver (.nibble (lutContent 3 row col)) s)

/-- S5 (R136). -/
def execS5 (row : BitVec 2) (col : BitVec 4) (s : State) : Host.Outcome State Fault Refusal :=
  .next (deliver (.nibble (lutContent 4 row col)) s)

/-- S6 (R137). -/
def execS6 (row : BitVec 2) (col : BitVec 4) (s : State) : Host.Outcome State Fault Refusal :=
  .next (deliver (.nibble (lutContent 5 row col)) s)

/-- S7 (R138). -/
def execS7 (row : BitVec 2) (col : BitVec 4) (s : State) : Host.Outcome State Fault Refusal :=
  .next (deliver (.nibble (lutContent 6 row col)) s)

/-- S8 (R139). -/
def execS8 (row : BitVec 2) (col : BitVec 4) (s : State) : Host.Outcome State Fault Refusal :=
  .next (deliver (.nibble (lutContent 7 row col)) s)

end Sys2Proof.Machine
end

