-- ==== Sys2Proof/Machine/Dispatch.lean ====
section
/-! DEFINITION. The meaning of each instruction, one arm per row of the opcode table. -/

namespace Sys2Proof.Machine

def exec (i : Instr) (s : State) : Host.Outcome State Fault Refusal :=
  match i with
  -- HOSTCMD
  | .nop => Sys2Proof.Machine.execNop s
  | .ldkey key => Sys2Proof.Machine.execLdkey key s
  | .ldblk block => Sys2Proof.Machine.execLdblk block s
  | .start => Sys2Proof.Machine.execStart s
  | .rsvd n => Sys2Proof.Machine.execRsvd n s
  -- MICROOP
  | .kspc1 => Sys2Proof.Machine.execKspc1 s
  | .ksrot => Sys2Proof.Machine.execKsrot s
  | .iperm => Sys2Proof.Machine.execIperm s
  | .round => Sys2Proof.Machine.execRound s
  | .fperm => Sys2Proof.Machine.execFperm s
  -- SBOXLUT
  | .s1 row col => Sys2Proof.Machine.execS1 row col s
  | .s2 row col => Sys2Proof.Machine.execS2 row col s
  | .s3 row col => Sys2Proof.Machine.execS3 row col s
  | .s4 row col => Sys2Proof.Machine.execS4 row col s
  | .s5 row col => Sys2Proof.Machine.execS5 row col s
  | .s6 row col => Sys2Proof.Machine.execS6 row col s
  | .s7 row col => Sys2Proof.Machine.execS7 row col s
  | .s8 row col => Sys2Proof.Machine.execS8 row col s
  -- FUNCTION
  | .permute w table v => Sys2Proof.Machine.execPermute w table v s
  | .rotl28 v n => Sys2Proof.Machine.execRotl28 v n s
  | .deriveSubkeys key => Sys2Proof.Machine.execDeriveSubkeys key s
  | .substitute box x => Sys2Proof.Machine.execSubstitute box x s
  | .roundFunction rightHalf subkey => Sys2Proof.Machine.execRoundFunction rightHalf subkey s
  | .encryptBlock plaintext key => Sys2Proof.Machine.execEncryptBlock plaintext key s
  | .bytesToWord b => Sys2Proof.Machine.execBytesToWord b s
  | .encrypt8 message key => Sys2Proof.Machine.execEncrypt8 message key s
  | .encrypt16 message key => Sys2Proof.Machine.execEncrypt16 message key s
  | .encryptBadlength message key => Sys2Proof.Machine.execEncryptBadlength message key s
  | .mirror8 b => Sys2Proof.Machine.execMirror8 b s
  | .deriveKeyFromPassword password => Sys2Proof.Machine.execDeriveKeyFromPassword password s
  | .encryptWithPassword message password => Sys2Proof.Machine.execEncryptWithPassword message password s

end Sys2Proof.Machine
end

