-- ==== Sys2Proof/Machine/Edge.lean ====
section
/-! DEFINITION. One rising edge of `clk` (R8, R175, R176). -/

namespace Sys2Proof.Machine

/-- The command rule of an edge: the instruction the sample decodes to, executed (R66, R176). -/
def commandPart (p : PortIn) (s : State) : Host.Outcome State Fault Refusal :=
  match decode (.command p.word) with
  | .ok i => exec i s
  | .error e => .refused (.undecodable e)

/-- The micro-operation rule of an edge: the instruction that the PHASE before the edge decodes to, executed; in IDLE
there is none (R70, R176). -/
def microPart (before : Phase) (s : State) : Host.Outcome State Fault Refusal :=
  match decode (.phase before.code) with
  | .ok i => exec i s
  | .error _ => .next s

/-- One edge with the port sample `p`: with `rst` = 1 only the reset rule fires; otherwise one command rule and, while
PHASE ≠ IDLE, one micro-operation rule, "which write disjoint state" (R8, R176). Running the command rule first gives
the simultaneous assignment: while busy it writes at most ERR, which no micro-operation reads or writes (log 6). In a state that no run reaches (R28) the rules
apply as they read (log 24). -/
def edge (p : PortIn) (s : State) : Host.Outcome State Fault Refusal :=
  if p.rst then .next (resetEdge s)
  else andThen (commandPart p s) (microPart s.phase)

/-- The next edge: the sample is taken from the ports, then the edge happens. -/
def clockEdge (s : State) : Host.Outcome State Fault Refusal := edge (samplePorts s) (takeSample s)

/-- The port sample that presents the table bits `w` as a command with `rst` = 0 (R62; log 7). -/
def tableSample (w : Nat) : PortIn where
  rst := false
  cmd := cmdField (BitVec.ofNat 67 w)
  din := dinField (BitVec.ofNat 67 w)

/-- The host presents the table bits `w` at the next edge. A LUT address (9 bits, or 16 in whole bytes) is presented
nowhere: "the host cannot invoke one alone" (R72), so the state is left as it is (logs 8, 9). -/
def lineUpTableWord (s : State) (nbits w : Nat) : State :=
  if nbits = 9 ∨ nbits = 16 then s else { s with host := tableSample w :: s.host }

end Sys2Proof.Machine
end

