-- ==== Sys2Proof/Machine/Step.lean ====
section
/-! DEFINITION. One step of the machine is one rising edge of `clk` (R8). -/

namespace Sys2Proof.Machine

/-- One rising edge of `clk`, on the sample the host presents (R8, R176). -/
def step (s : State) : Host.Outcome State Fault Refusal := clockEdge s

/-- The state whose next edge samples the table bits `w` (log 9). -/
def State.withFetchWord (s : State) (nbits w : Nat) : State := lineUpTableWord s nbits w

end Sys2Proof.Machine
end

