-- ==== Sys2Proof/Machine/HostProgram.lean ====
section
/-! DEFINITION. The notation for host programs (R76) and the command sequences by which a host realises the byte-level
procedures (R220). A program is a list of lines, one per rising edge, some of them written as pseudo-instructions; it runs by
lining up, in `State.host`, samples that present its lines (log 9). -/

namespace Sys2Proof.Machine

/-- One line of a host program (R76). `rsvd n` is `RSVD (4 + n)`. -/
inductive Line where
  | reset
  | nop
  | ldkey (key : BitVec 64)
  | ldblk (block : BitVec 64)
  | start
  | rsvd (n : BitVec 2)
  deriving DecidableEq, Repr

/-- The sample that presents a line; `ignored` stands on `din` where R76 says "any (ignored)". -/
def lineSample (ignored : BitVec 64) : Line → PortIn
  | .reset => { rst := true, cmd := 0b000#3, din := ignored }
  | .nop => { rst := false, cmd := 0b000#3, din := ignored }
  | .ldkey key => { rst := false, cmd := 0b001#3, din := key }
  | .ldblk block => { rst := false, cmd := 0b010#3, din := block }
  | .start => { rst := false, cmd := 0b011#3, din := ignored }
  | .rsvd n => { rst := false, cmd := 1#1 ++ n, din := ignored }

/-- A state in which the host has the program lined up, in front of nothing else. -/
def lineUpProgram (ignored : BitVec 64) (program : List Line) (s : State) : State :=
  { s with host := program.map (lineSample ignored) }

/-! ## Running lines -/

/-- The edges of a list of samples, one after another; a stop ends it. -/
def runEdges : List PortIn → State → Host.Outcome State Fault Refusal
  | [], s => .next s
  | p :: ps, s => andThen (edge p s) (runEdges ps)

/-- The edges of a list of lines, in order (R76). -/
def runLines (ignored : BitVec 64) (lines : List Line) (s : State) : Host.Outcome State Fault Refusal :=
  runEdges (lines.map (lineSample ignored)) s

/-! ## Pseudo-instructions

A pseudo-instruction stands for a list of lines that may depend on the state it is met in, since WAIT does; `none` says
that it has no expansion there. -/

/-- The pseudo-instruction `NOP × n` (R76). -/
def nopTimes (n : Nat) : List Line := List.replicate n .nop

/-- How many NOP lines, at most `bound`, are needed until `done` = 1; `none` where so many do not suffice (R76). None is
needed where `done` is 1 already (DESIGN CHOICE, log 22). -/
def waitCount (ignored : BitVec 64) : Nat → State → Option Nat
  | 0, s => if donePort s then some 0 else none
  | bound + 1, s =>
    if donePort s then some 0
    else match edge (lineSample ignored .nop) s with
      | .next t => (waitCount ignored bound t).map (· + 1)
      | .fault _ => none
      | .refused _ => none

/-- The pseudo-instruction `WAIT`: "as many `NOP` lines as needed until the output `done` = 1 after the edge" (R76). More
than 35 are never needed (R280); in IDLE with `done` = 0 no number suffices and there is no expansion (log 22). -/
def waitLines (ignored : BitVec 64) (s : State) : Option (List Line) := (waitCount ignored 35 s).map nopTimes

/-- What `k` makes of an expansion and of the state after its lines. -/
def afterExpansion {α : Type} (ignored : BitVec 64) (expansion : State → Option (List Line))
    (k : List Line → State → Option α) (s : State) : Option α :=
  match expansion s with
  | none => none
  | some lines =>
    match runLines ignored lines s with
    | .next t => k lines t
    | .fault _ => none
    | .refused _ => none

/-- One expansion, then another in the state after the lines of the first. -/
def expandBoth (ignored : BitVec 64) (first second : State → Option (List Line)) (s : State) : Option (List Line) :=
  afterExpansion ignored first (fun lines t => (second t).map (lines ++ ·)) s

/-- The lines `lines`, then WAIT. -/
def linesThenWait (ignored : BitVec 64) (lines : List Line) : State → Option (List Line) :=
  expandBoth ignored (fun _ => some lines) (waitLines ignored)

/-- The pseudo-instruction `ENCRYPT8 key, m`: LDKEY, LDBLK, START, WAIT (R76, R220). -/
def encrypt8Lines (ignored key m : BitVec 64) : State → Option (List Line) :=
  linesThenWait ignored [.ldkey key, .ldblk m, .start]

/-- The second half of `ENCRYPT16 key, m0, m1`, under the same key: LDBLK, START, WAIT (R76, R220). -/
def encryptNextLines (ignored m : BitVec 64) : State → Option (List Line) :=
  linesThenWait ignored [.ldblk m, .start]

/-- The pseudo-instruction `ENCRYPT16 key, m0, m1` (R76, R220). -/
def encrypt16Lines (ignored key m0 m1 : BitVec 64) : State → Option (List Line) :=
  expandBoth ignored (encrypt8Lines ignored key m0) (encryptNextLines ignored m1)

/-- What a program is written of: lines and pseudo-instructions (R76). -/
inductive Item where
  | line (l : Line)
  | nops (n : Nat)
  | wait
  | encrypt8 (key m : BitVec 64)
  | encrypt16 (key m0 m1 : BitVec 64)
  deriving DecidableEq, Repr

/-- The lines an item stands for in the state it is met in (R76). -/
def expandItem (ignored : BitVec 64) : Item → State → Option (List Line)
  | .line l => fun _ => some [l]
  | .nops n => fun _ => some (nopTimes n)
  | .wait => waitLines ignored
  | .encrypt8 key m => encrypt8Lines ignored key m
  | .encrypt16 key m0 m1 => encrypt16Lines ignored key m0 m1

/-- The lines a program stands for, started in a state (R76). -/
def expandProgram (ignored : BitVec 64) : List Item → State → Option (List Line)
  | [] => fun _ => some []
  | item :: rest => expandBoth ignored (expandItem ignored item) (expandProgram ignored rest)

/-! ## Taking results -/

/-- The host takes `dout`: only while `done` = 1 (R76, R270 H4). -/
def takeDout (s : State) : Option (BitVec 64) := if donePort s then some (doutPort s) else none

/-- What the host takes after `ENCRYPT8 key, m` (R76, R220). -/
def encrypt8Result (ignored key m : BitVec 64) (s : State) : Option (BitVec 64) :=
  afterExpansion ignored (encrypt8Lines ignored key m) (fun _ t => takeDout t) s

/-- c0 and c1, what the host takes in the middle and at the end of `ENCRYPT16 key, m0, m1` (R76, R220). -/
def encrypt16Result (ignored key m0 m1 : BitVec 64) (s : State) : Option (BitVec 64 × BitVec 64) :=
  afterExpansion ignored (encrypt8Lines ignored key m0)
    (fun _ t =>
      match takeDout t with
      | none => none
      | some c0 => afterExpansion ignored (encryptNextLines ignored m1) (fun _ u => (takeDout u).map (c0, ·)) t) s

/-! ## The byte-level procedures on the engine -/

/-- The lines by which the host realises a request: ENCRYPT8 or ENCRYPT16 (R220). -/
def requestLines (ignored : BitVec 64) : EncryptRequest → State → Option (List Line)
  | .one key m => encrypt8Lines ignored key m
  | .two key m0 m1 => encrypt16Lines ignored key m0 m1

/-- The bytes the host makes of what it takes from `dout` along those lines (R220). -/
def requestResult (ignored : BitVec 64) (request : EncryptRequest) (s : State) : Option (List Byte) :=
  match request with
  | .one key m => (encrypt8Result ignored key m s).map blockBytes
  | .two key m0 m1 => (encrypt16Result ignored key m0 m1 s).map twoBlockBytes

/-- The lines by which the host realises `encrypt(message, key)`: the lengths are checked before the first command, and
none is issued where a check fails (R213, R220, R235). `none` where a WAIT in them has no expansion (log 22). -/
def encryptLines (ignored : BitVec 64) (message key : List Byte) (s : State) : Option (List Line) :=
  match encryptRequest message key with
  | .ok request => requestLines ignored request s
  | .error _ => some []

/-- What the host returns to the caller of `encrypt(message, key)` when it realises it on the engine (R220): the error of
a failed check, or the bytes read from `dout`. -/
def encryptOnEngine (ignored : BitVec 64) (message key : List Byte) (s : State) :
    Option (Except HostError (List Byte)) :=
  match encryptRequest message key with
  | .ok request => (requestResult ignored request s).map .ok
  | .error e => some (.error e)

/-- The lines by which the host realises `encrypt(message, password)` (R218, R220). -/
def encryptWithPasswordLines (ignored : BitVec 64) (message : List Byte) (password : Text) :
    State → Option (List Line) :=
  encryptLines ignored message (passwordKeyBytes password)

/-- What the host returns to the caller of `encrypt(message, password)` when it realises it on the engine (R218, R220). -/
def encryptWithPasswordOnEngine (ignored : BitVec 64) (message : List Byte) (password : Text) :
    State → Option (Except HostError (List Byte)) :=
  encryptOnEngine ignored message (passwordKeyBytes password)

end Sys2Proof.Machine
end

