-- ==== Sys2Proof/Safety.lean ====
section
/-! DEFINITION. What counts as a safe run, in the terms claims use: the reachable-state invariants (R19, R28, R171), the
engine's faults (R236) and the host discipline (R270). -/

namespace Sys2Proof.Safety

open Sys2Proof.Machine

/-- R28, but for PHASE ∈ {0,…,5} and RND ∈ {0,…,16}, which the types say: RND ∈ {1,…,16} if and only if
PHASE ∈ {KSROT, ROUND}; PHASE ≠ IDLE implies KV = 1, BV = 1 and DONE = 0. -/
abbrev ControlInv (s : State) : Prop :=
  (1 ≤ s.rnd.val ↔ s.phase = .ksrot ∨ s.phase = .round) ∧
  (s.phase ≠ .idle → s.kv = true ∧ s.bv = true ∧ s.done = false)

/-- R19: `DONE = 1` implies `DOUT = encryptBlock(DIN, KEY)`, `PHASE = IDLE`, `KV = 1` and `BV = 1`. -/
abbrev DoneInv (s : State) : Prop :=
  s.done = true → s.dout = encryptBlock s.din s.key ∧ s.phase = .idle ∧ s.kv = true ∧ s.bv = true

/-- The loop invariants of R171 and the timeline of R191: before KSROT(i), `(C, D) = (C[i-1], D[i-1])` and
`SK[j] = K[j]` for j < i; from IPERM on `SK = K`; before ROUND(i), `(L, R) = (L[i-1], R[i-1])`; before FPERM,
`(L, R) = (L[16], R[16])`. -/
abbrev ProgressInv (s : State) : Prop :=
  match s.phase with
  | .idle => True
  | .kspc1 => True
  | .ksrot =>
    (s.c, s.d) = keyHalves s.key (s.rnd.val - 1) ∧
    ∀ j : Fin 16, j.val + 1 < s.rnd.val → s.sk[j.val] = (deriveSubkeys s.key)[j.val]
  | .iperm => s.sk = deriveSubkeys s.key
  | .round => s.sk = deriveSubkeys s.key ∧ (s.l, s.r) = dataHalves s.din s.key (s.rnd.val - 1)
  | .fperm => s.sk = deriveSubkeys s.key ∧ (s.l, s.r) = dataHalves s.din s.key 16

/-- Everything the spec promises of a reachable state (R19, R28, R171). -/
abbrev EngineInv (s : State) : Prop := ControlInv s ∧ DoneInv s ∧ ProgressInv s

/-- The engine fault an edge with the sample `p` raises in the state `s`, as the ERR bit it sets, or none (R236):
ILLCMD for `cmd[2] = 1`; BUSYCMD for a command while PHASE ≠ IDLE; UNLOADED for START in IDLE with KV = 0 or BV = 0;
none at an edge with `rst` = 1 (R241). -/
def faultOf (p : PortIn) (s : State) : BitVec 3 :=
  if p.rst then 0b000#3
  else if p.cmd.getLsbD 2 then 0b001#3
  else if p.cmd = 0b000#3 then 0b000#3
  else if s.phase ≠ .idle then 0b010#3
  else if p.cmd = 0b011#3 ∧ ¬ (s.kv = true ∧ s.bv = true) then 0b100#3
  else 0b000#3

/-- What the host does at one edge: whether it first takes `dout` as a result, the sample it then presents, and whether
an `rst` = 1 in that sample is meant to abort a running operation (R270). -/
structure HostAction where
  takes : Bool
  sample : PortIn
  aborts : Bool
  deriving DecidableEq, Repr

/-- What R270 asks of the host at one edge, in the state before it (H1 and H5 are about a run, `HostDiscipline`). A sample
with `rst` = 1 presents no command, since its `cmd` is ignored (R76, R176; log 23). Between an accepted START and
`done` = 1 the engine is busy, and at no other time (R191), so H6 allows `rst` at any other edge. -/
structure Disciplined (a : HostAction) (s : State) : Prop where
  /-- Only NOP while `busy` = 1. -/
  h2 : a.sample.rst = false → busyPort s = true → a.sample.cmd = 0b000#3
  /-- START only after an LDKEY and an LDBLK since the last reset. -/
  h3 : a.sample.rst = false → a.sample.cmd = 0b011#3 → s.kv = true ∧ s.bv = true
  /-- `dout` is used only while `done` = 1. -/
  h4 : a.takes = true → donePort s = true
  /-- `rst` in a running operation only to abort it. -/
  h6 : a.sample.rst = true → busyPort s = true → a.aborts = true
  /-- Never `cmd[2]` = 1. -/
  h7 : a.sample.rst = false → a.sample.cmd.getLsbD 2 = false

/-- Whether the result on `dout` has been taken once the host has acted and before the edge. -/
def resultTaken (taken : Bool) (a : HostAction) : Bool := taken || a.takes

/-- H5: a load while `done` = 1 is issued only once the result has been taken. -/
abbrev TakesBeforeLoad (taken : Bool) (a : HostAction) (s : State) : Prop :=
  a.sample.rst = false → (a.sample.cmd = 0b001#3 ∨ a.sample.cmd = 0b010#3) → donePort s = true →
    resultTaken taken a = true

/-- H2 to H7 along a run; `taken` says whether the result that `done` = 1 announces has been taken. A new result has
not been taken. -/
def DisciplinedRun : Bool → List HostAction → State → Prop
  | _, [], _ => True
  | taken, a :: rest, s =>
    Disciplined a s ∧ TakesBeforeLoad taken a s ∧
      ∀ t : State, edge a.sample s = .next t → DisciplinedRun (donePort s && donePort t && resultTaken taken a) rest t

/-- The host discipline of R270, H1 to H7: the run begins with a reset, from a state of which nothing is assumed, and H2
to H7 hold from there on. A host that does nothing keeps it. -/
def HostDiscipline (actions : List HostAction) (s : State) : Prop :=
  match actions with
  | [] => True
  | first :: rest =>
    first.takes = false ∧ first.sample.rst = true ∧
      ∀ t : State, edge first.sample s = .next t → DisciplinedRun false rest t

/-- `dout` may be used as a result only while `done` = 1 (R270 H4), and a claim about a result also takes
ERR = 0b000 (R244, R264). -/
abbrev ResultReady (s : State) : Prop := donePort s = true ∧ errPort s = 0b000#3

/-- PHASE and RND after an accepted START and `k` further edges without reset, k = 0, …, 35 (R191). -/
def timeline (k : Nat) : Phase × RoundNumber :=
  if k = 0 then (.kspc1, 0)
  else if k ≤ 16 then (.ksrot, Fin.ofNat 17 k)
  else if k = 17 then (.iperm, 0)
  else if k ≤ 33 then (.round, Fin.ofNat 17 (k - 17))
  else if k = 34 then (.fperm, 0)
  else (.idle, 0)

end Sys2Proof.Safety
end

