-- ==== Sys2Proof/Certificates/Slice0/Obligations.lean ====
section
/-! DEFINITION. The statements for the provers. Each says, in its docstring, which rule of the spec it formalises; where
it rests on an inference the spec marks as its own ("[derived]") or on a choice of the model, the docstring says so. -/

open Sys2Proof Sys2Proof.Machine Sys2Proof.Safety

/-! ## Encoding -/

/-- R62, R66, R70, R42 (the places of `cmd` and `din` in a sample are log 7): words written out bit by bit from the
spec's encodings decode to the instructions they stand for. -/
def Obligations.WordsOfTheSpecDecode : Prop :=
  decode (.command 0b0000000000000000000000000000000000000000000000000000000000000000_000#67) = .ok .nop ∧
  decode (.command 0b0001001100110100010101110111100110011011101111001101111111110001_001#67) =
    .ok (.ldkey 0x133457799BBCDFF1#64) ∧
  decode (.command 0b0000000100100011010001010110011110001001101010111100110111101111_010#67) =
    .ok (.ldblk 0x0123456789ABCDEF#64) ∧
  decode (.command 0b0000000000000000000000000000000000000000000000000000000000000000_011#67) = .ok .start ∧
  decode (.command 0b0000000000000000000000000000000000000000000000000000000000000000_101#67) = .ok (.rsvd 0b01#2) ∧
  decode (.phase 0b001#3) = .ok .kspc1 ∧
  decode (.phase 0b101#3) = .ok .fperm ∧
  decode (.phase 0b000#3) = .error .idlePhase ∧
  decode (.phase 0b110#3) = .error (.unreachablePhase 0b110#3) ∧
  decode (.lut 0b000_00_1100#9) = .ok (.s1 0b00#2 0b1100#4) ∧
  decode (.lut 0b111_11_0011#9) = .ok (.s8 0b11#2 0b0011#4) ∧
  decode (.lut 0b100_11_0000#9) = .ok (.s5 0b11#2 0b0000#4)

/-- Decode and encode agree: every instruction that has bits is read back, with every operand at every value. -/
def Obligations.DecodeOfEncodeIsTheInstruction : Prop :=
  ∀ (i : Instr) (w : CodeWord), encode i = some w → decode w = .ok i

/-- Encode and decode agree on PHASE codes and LUT addresses, where each word has one meaning, and on command samples
in `cmd` and in the `din` of a load (`din` is a don't-care of the other commands, R62). -/
def Obligations.EncodeOfDecodeIsTheWord : Prop :=
  (∀ (p : BitVec 3) (i : Instr), decode (.phase p) = .ok i → encode i = some (.phase p)) ∧
  (∀ (a : BitVec 9) (i : Instr), decode (.lut a) = .ok i → encode i = some (.lut a)) ∧
  (∀ (w : BitVec 67) (i : Instr), decode (.command w) = .ok i →
    ∃ v : BitVec 67, encode i = some (.command v) ∧ cmdField v = cmdField w ∧
      (cmdField w = 0b001#3 ∨ cmdField w = 0b010#3 → v = w))

/-- R77: "`cmd & mask == match` selects exactly one row for every 3-bit value"; so every sample decodes. -/
def Obligations.EveryCommandCodeSelectsOneRow : Prop :=
  (∀ cmd : BitVec 3, (hostRows.filter fun row => row.selects cmd).length = 1) ∧
  (∀ w : BitVec 67, ∃ i : Instr, decode (.command w) = .ok i)

/-! ## Host commands -/

/-- R180: NOP assigns nothing, in every phase, whatever `din` is; while PHASE ≠ IDLE every other command is a fault. -/
def Obligations.NopChangesNothing : Prop :=
  (∀ din : BitVec 64, decode (.command (commandWord 0b000#3 din)) = .ok .nop) ∧
  (∀ s : State, exec .nop s = .next s) ∧
  (∀ (cmd : BitVec 3) (din : BitVec 64) (i : Instr) (s : State), cmd ≠ 0b000#3 → s.phase ≠ .idle →
    decode (.command (commandWord cmd din)) = .ok i →
    ∃ bit : BitVec 3, bit ≠ 0b000#3 ∧ exec i s = .next { s with err := s.err ||| bit })

/-- R182: in IDLE, LDKEY does `KEY <- din ; KV <- 1 ; DONE <- 0` and nothing else. -/
def Obligations.LdkeyLoadsTheKeyWhenIdle : Prop :=
  (∀ din : BitVec 64, decode (.command (commandWord 0b001#3 din)) = .ok (.ldkey din)) ∧
  (∀ (din : BitVec 64) (s : State), s.phase = .idle →
    exec (.ldkey din) s = .next { s with key := din, kv := true, done := false })

/-- R183: in IDLE, LDBLK does `DIN <- din ; BV <- 1 ; DONE <- 0` and nothing else. -/
def Obligations.LdblkLoadsTheBlockWhenIdle : Prop :=
  (∀ din : BitVec 64, decode (.command (commandWord 0b010#3 din)) = .ok (.ldblk din)) ∧
  (∀ (din : BitVec 64) (s : State), s.phase = .idle →
    exec (.ldblk din) s = .next { s with din := din, bv := true, done := false })

/-- R184: in IDLE, START begins an operation if KV = 1 and BV = 1, else it is refused with UNLOADED; `din` is ignored. -/
def Obligations.StartBeginsOrIsRefusedWhenIdle : Prop :=
  (∀ din : BitVec 64, decode (.command (commandWord 0b011#3 din)) = .ok .start) ∧
  (∀ s : State, s.phase = .idle → s.kv = true → s.bv = true →
    exec .start s = .next { s with phase := .kspc1, done := false }) ∧
  (∀ s : State, s.phase = .idle → (s.kv = false ∨ s.bv = false) →
    exec .start s = .next { s with err := s.err ||| 0b100#3 })

/-- R181, R233: while PHASE ≠ IDLE, LDKEY, LDBLK and START set ERR[1] and nothing else; the micro-operation of the same
edge is executed as usual. -/
def Obligations.CommandsWhileBusySetBusycmdOnly : Prop :=
  (∀ (din : BitVec 64) (i : Instr) (s : State), s.phase ≠ .idle → (i = .ldkey din ∨ i = .ldblk din ∨ i = .start) →
    exec i s = .next { s with err := s.err ||| 0b010#3 }) ∧
  (∀ (p : PortIn) (s : State), p.rst = false → s.phase ≠ .idle →
    (p.cmd = 0b001#3 ∨ p.cmd = 0b010#3 ∨ p.cmd = 0b011#3) →
    edge p s = microPart s.phase { s with err := s.err ||| 0b010#3 })

/-- R185, R232: a code with `cmd[2] = 1` sets ERR[0] in any phase and nothing else; `cmd[1:0]` and `din` are ignored; the
micro-operation of the same edge, if any, is executed as usual. -/
def Obligations.ReservedCodesSetIllcmdOnly : Prop :=
  (∀ (cmd : BitVec 3) (din : BitVec 64), cmd.getLsbD 2 = true →
    ∃ n : BitVec 2, decode (.command (commandWord cmd din)) = .ok (.rsvd n)) ∧
  (∀ (n : BitVec 2) (s : State), exec (.rsvd n) s = .next { s with err := s.err ||| 0b001#3 }) ∧
  (∀ (p : PortIn) (s : State), p.rst = false → p.cmd.getLsbD 2 = true →
    edge p s = microPart s.phase { s with err := s.err ||| 0b001#3 })

/-! ## Micro-operations -/

/-- R186: `cd = permute(PC1, 64, KEY) ; C <- cd[55:28] ; D <- cd[27:0] ; RND <- 1 ; PHASE <- KSROT`. Said of every
state, whatever its PHASE, which the rule fixes: the model's choice, log 16. -/
def Obligations.Kspc1LoadsTheKeyHalves : Prop :=
  decode (.phase 0b001#3) = .ok .kspc1 ∧
  (∀ s : State, exec .kspc1 s = .next
    { s with
      c := (permute tablePC1 s.key).extractLsb' 28 28, d := (permute tablePC1 s.key).extractLsb' 0 28,
      rnd := 1, phase := .ksrot })

/-- R187: for RND = i ∈ 1..16, both halves are rotated by SHIFT[i], SK[i] is PC2 of the rotated halves, the other fifteen
entries keep their values; RND counts up to 16, then RND is 0 and PHASE is IPERM. Said whatever PHASE is: the model's choice,
log 16. -/
def Obligations.KsrotDoesOneRoundOfTheKeySchedule : Prop :=
  decode (.phase 0b010#3) = .ok .ksrot ∧
  (∀ (i : Fin 16) (s : State), s.rnd.val = i.val + 1 →
    exec .ksrot s = .next
      { s with
        c := rotl28 s.c (shiftAmount (i.val + 1)), d := rotl28 s.d (shiftAmount (i.val + 1)),
        sk := s.sk.set i.val
          (permute tablePC2 (rotl28 s.c (shiftAmount (i.val + 1)) ++ rotl28 s.d (shiftAmount (i.val + 1)))) i.isLt,
        rnd := if i.val + 1 < 16 then Fin.ofNat 17 (i.val + 2) else 0,
        phase := if i.val + 1 < 16 then s.phase else .iperm })

/-- R188: `x = permute(IP, 64, DIN) ; L <- x[63:32] ; R <- x[31:0] ; RND <- 1 ; PHASE <- ROUND`. Said of every
state, whatever its PHASE, which the rule fixes: the model's choice, log 16. -/
def Obligations.IpermLoadsTheDataHalves : Prop :=
  decode (.phase 0b011#3) = .ok .iperm ∧
  (∀ s : State, exec .iperm s = .next
    { s with
      l := (permute tableIP s.din).extractLsb' 32 32, r := (permute tableIP s.din).extractLsb' 0 32,
      rnd := 1, phase := .round })

/-- R189: for RND = i ∈ 1..16, `L <- R ; R <- L xor roundFunction(R, SK[i])`; SK is only read; RND counts up to 16, then
RND is 0 and PHASE is FPERM. Said whatever PHASE is: the model's choice, log 16. -/
def Obligations.RoundDoesOneFeistelRound : Prop :=
  decode (.phase 0b100#3) = .ok .round ∧
  (∀ (i : Fin 16) (s : State), s.rnd.val = i.val + 1 →
    exec .round s = .next
      { s with
        l := s.r, r := s.l ^^^ roundFunction s.r s.sk[i.val],
        rnd := if i.val + 1 < 16 then Fin.ofNat 17 (i.val + 2) else 0,
        phase := if i.val + 1 < 16 then s.phase else .fperm })

/-- R190: `DOUT <- permute(FP, 64, R ‖ L) ; DONE <- 1 ; PHASE <- IDLE`; L and R are not changed. Said of every
state, whatever its PHASE, which the rule fixes: the model's choice, log 16. -/
def Obligations.FpermWritesTheResult : Prop :=
  decode (.phase 0b101#3) = .ok .fperm ∧
  (∀ s : State, exec .fperm s = .next
    { s with dout := permute tableFP (s.r ++ s.l), done := true, phase := .idle })

/-- The model's choice (log 10; R28): KSROT and ROUND stop exactly where RND names no round, that is, where it is 0. -/
def Obligations.RoundMicroOpsStopOutsideTheRounds : Prop :=
  ∀ s : State,
    (exec .ksrot s = .fault .rndOutOfRange ↔ s.rnd = 0) ∧
    (exec .round s = .fault .rndOutOfRange ↔ s.rnd = 0)

/-! ## S-box LUT rows -/

/-- R132–R139 written a second time: the four rows of each box, column 0 in the most significant hex digit. -/
def Sys2Proof.Certificates.boxRows : List (List (BitVec 64)) :=
  [[0xE4D12FB83A6C5907#64, 0x0F74E2D1A6CB9538#64, 0x41E8D62BFC973A50#64, 0xFC8249175B3EA06D#64],
   [0xF18E6B34972DC05A#64, 0x3D47F28EC01A69B5#64, 0x0E7BA4D158C6932F#64, 0xD8A13F42B67C05E9#64],
   [0xA09E63F51DC7B428#64, 0xD709346A285ECBF1#64, 0xD6498F30B12C5AE7#64, 0x1AD069874FE3B52C#64],
   [0x7DE3069A1285BC4F#64, 0xD8B56F03472C1AE9#64, 0xA690CB7DF13E5284#64, 0x3F06A1D8945BC72E#64],
   [0x2C417AB6853FD0E9#64, 0xEB2C47D150FA3986#64, 0x421BAD78F9C5630E#64, 0xB8C71E2D6F09A453#64],
   [0xC1AF92680D34E75B#64, 0xAF427C9561DE0B38#64, 0x9EF528C3704A1DB6#64, 0x432C95FABE17608D#64],
   [0x4B2EF08D3C975A61#64, 0xD0B7491AE35C2F86#64, 0x14BDC37EAF680592#64, 0x6BD814A7950FE23C#64],
   [0xD2846FB1A93E50C7#64, 0x1FD8A374C56B0E92#64, 0x7B419CE206ADF358#64, 0x21E74A8DFC90356B#64]]

/-- The entry in row `row`, column `col` of box `box + 1`, read from those digits. -/
def Sys2Proof.Certificates.boxEntry (box : Nat) (row : BitVec 2) (col : BitVec 4) : BitVec 4 :=
  ((Sys2Proof.Certificates.boxRows.getD box []).getD row.toNat 0#64).extractLsb' (60 - 4 * col.toNat) 4

/-- R42, R132–R139: each S-box row answers, at every LUT address, the entry of that row and column, and touches no engine
register. -/
def Obligations.SboxLutRowsHoldTheEntries : Prop :=
  ∀ (row : BitVec 2) (col : BitVec 4) (s : State),
    exec (.s1 row col) s = .next { s with fnOut := .nibble (Sys2Proof.Certificates.boxEntry 0 row col) } ∧
    exec (.s2 row col) s = .next { s with fnOut := .nibble (Sys2Proof.Certificates.boxEntry 1 row col) } ∧
    exec (.s3 row col) s = .next { s with fnOut := .nibble (Sys2Proof.Certificates.boxEntry 2 row col) } ∧
    exec (.s4 row col) s = .next { s with fnOut := .nibble (Sys2Proof.Certificates.boxEntry 3 row col) } ∧
    exec (.s5 row col) s = .next { s with fnOut := .nibble (Sys2Proof.Certificates.boxEntry 4 row col) } ∧
    exec (.s6 row col) s = .next { s with fnOut := .nibble (Sys2Proof.Certificates.boxEntry 5 row col) } ∧
    exec (.s7 row col) s = .next { s with fnOut := .nibble (Sys2Proof.Certificates.boxEntry 6 row col) } ∧
    exec (.s8 row col) s = .next { s with fnOut := .nibble (Sys2Proof.Certificates.boxEntry 7 row col) }

/-- The raw-input table of R140: one hex digit per input 0, 1, …, 63, input 0 in the most significant digit. -/
def Sys2Proof.Certificates.rawBoxes : List (BitVec 256) :=
  [0xE04FD7142EF2BD813AA66CCB599503784F1CE882D46921B7F5CB937E3AA0560D#256,
   0xF31D84E76FB2384E9C7021DAC6095BA50DE87AB1A34FD4125B86C76C90352EF9#256,
   0xAD0790E96334F65A12D8C57EBC4B2F81D16A4D9086F93807B41F2EC35BA5E27C#256,
   0x7DD8EB35066F90A31427825CB1CA4EF9A36F9006CAB17DD8F91435EB5C27824E#256,
   0x2ECB421C74A7BD6185503FFAD309E8964B281CB7A1DE728DF69FC0596A3405E3#256,
   0xCA1FA4F2972C698506D13D4EE07B53B894E3F25C2985CF3A7B0E41A716D0B86D#256,
   0x4DB02BE7F40981DA3EC3957C52AF6816164BBDD8C1347AE7A9F5608F0E52932C#256,
   0xD12F8D486AF3B714AC9536EB500EC97272B14E1794CAE82D0F6CA9D0F335568B#256]

/-- The digit of R140 for box `box + 1` and raw input `x`. -/
def Sys2Proof.Certificates.rawEntry (box : Fin 8) (x : BitVec 6) : BitVec 4 :=
  (Sys2Proof.Certificates.rawBoxes.getD box.val 0#256).extractLsb' (252 - 4 * x.toNat) 4

/-- R130, R140: `substitute(b, x)` is, for every box and every raw input, the digit of the raw-input table, which the spec
derives; R131: that digit is the entry of the LUT row `x[5] ‖ x[0]` and column `x[4:1]`. -/
def Obligations.SubstituteIsTheRawInputTable : Prop :=
  ∀ (box : Fin 8) (x : BitVec 6) (s : State),
    exec (.substitute box x) s = .next { s with fnOut := .nibble (Sys2Proof.Certificates.rawEntry box x) } ∧
    Sys2Proof.Certificates.rawEntry box x =
      Sys2Proof.Certificates.boxEntry box.val (x.extractLsb' 5 1 ++ x.extractLsb' 0 1) (x.extractLsb' 1 4)

/-! ## BitPermuter -/

/-- R90: for a table in range, `permute(T, W, v)[n-1-i] = v[W - T[i]]`; nothing but the value is delivered. -/
def Obligations.PermuteSelectsTheNamedBits : Prop :=
  ∀ (w : Nat) (table : List Nat) (v : BitVec w) (s : State), (∀ p ∈ table, 1 ≤ p ∧ p ≤ w) →
    ∃ out : BitVec table.length,
      exec (.permute w table v) s = .next { s with fnOut := .bits table.length out } ∧
      ∀ (i : Nat) (h : i < table.length), out.getLsbD (table.length - 1 - i) = v.getLsbD (w - table[i])

/-- R92, R231: a table with an entry outside 1..W is never evaluated; the model stops with MalformedTable. -/
def Obligations.PermuteStopsOnAMalformedTable : Prop :=
  ∀ (w : Nat) (table : List Nat) (v : BitVec w) (s : State), (∃ p ∈ table, p = 0 ∨ w < p) →
    exec (.permute w table v) s = .fault .malformedTable

/-- R91: the iterative form, "built MSB-first by successive left-shift-and-OR", is equal to `permute` for every
well-formed table. The spec marks the equivalence as derived from R90. -/
def Obligations.PermuteIsTheIterativeForm : Prop :=
  ∀ (w n : Nat) (table : PermTable w n) (v : BitVec w),
    permute table v =
      table.entries.foldl
        (fun (acc : BitVec n) (p : Nat) =>
          (acc <<< 1) ||| (BitVec.ofBool ((v >>> (w - p)).getLsbD 0)).setWidth n) 0#n

/-- R100: `permute` is linear over xor, keeps zero, and keeps all-ones, for every table. Derived by the spec from R90. -/
def Obligations.PermuteIsLinear : Prop :=
  ∀ (w n : Nat) (table : PermTable w n),
    (∀ a b : BitVec w, permute table (a ^^^ b) = permute table a ^^^ permute table b) ∧
    permute table 0#w = 0#n ∧
    permute table (BitVec.allOnes w) = BitVec.allOnes n

/-- R99: FP is the inverse of IP, both ways round. -/
def Obligations.FinalPermutationInvertsTheInitial : Prop :=
  ∀ v : BitVec 64,
    permute tableFP (permute tableIP v) = v ∧ permute tableIP (permute tableFP v) = v

/-! ## KeySchedule -/

/-- R112: `rotl28(v, n)[j] = v[(j - n) mod 28]`, and the slice form. -/
def Obligations.Rotl28RotatesWithinTwentyEightBits : Prop :=
  (∀ (v : BitVec 28) (n : RotAmount) (s : State),
    ∃ out : BitVec 28, exec (.rotl28 v n) s = .next { s with fnOut := .half out } ∧
      ∀ j : Nat, j < 28 → out.getLsbD j = v.getLsbD ((j + 28 - rotBits n) % 28)) ∧
  (∀ v : BitVec 28, rotl28 v .one = v.extractLsb' 0 27 ++ v.extractLsb' 27 1) ∧
  (∀ v : BitVec 28, rotl28 v .two = v.extractLsb' 0 26 ++ v.extractLsb' 26 2)

/-- R113: the rotation schedule. -/
def Obligations.RotationScheduleIsTheStandards : Prop :=
  (List.range' 1 16).map (fun i => rotBits (shiftAmount i)) = [1, 1, 2, 2, 2, 2, 2, 2, 1, 2, 2, 2, 2, 2, 2, 1]

/-- R110, R111, R114: `deriveSubkeys` by the source's four steps, with the halves C[i], D[i] named. -/
def Obligations.DeriveSubkeysFollowsTheFourSteps : Prop :=
  ∀ (key : BitVec 64) (s : State),
    ∃ (k : SubkeyFile) (c d : Nat → BitVec 28),
      exec (.deriveSubkeys key) s = .next { s with fnOut := .subkeys k } ∧
      c 0 = (permute tablePC1 key).extractLsb' 28 28 ∧ d 0 = (permute tablePC1 key).extractLsb' 0 28 ∧
      ∀ i : Fin 16,
        c (i.val + 1) = rotl28 (c i.val) (shiftAmount (i.val + 1)) ∧
        d (i.val + 1) = rotl28 (d i.val) (shiftAmount (i.val + 1)) ∧
        k[i.val] = permute tablePC2 (c (i.val + 1) ++ d (i.val + 1))

/-- The spec's own inferences about the rotations: a rotation by 2 is two by 1 (R112), the totals of the schedule (R113),
and, after round 16, the halves are back where they started (R116). -/
def Obligations.KeyHalvesReturnAfterSixteenRounds : Prop :=
  (∀ v : BitVec 28, rotl28 v .two = rotl28 (rotl28 v .one) .one) ∧
  (List.range' 1 16).map (fun i => ((List.range' 1 i).map fun j => rotBits (shiftAmount j)).sum) =
    [1, 2, 4, 6, 8, 10, 12, 14, 15, 17, 19, 21, 23, 25, 27, 28] ∧
  (∀ key : BitVec 64, keyHalves key 16 = keyHalves key 0)

/-- R118: the parity bits have no effect, on the subkeys or on the ciphertext; R216: so bit 7 of a password byte has none
on the ciphertext. Derived by the spec from R90, R97, R110. -/
def Obligations.ParityBitsHaveNoEffect : Prop :=
  (∀ key m : BitVec 64, m &&& 0xFEFEFEFEFEFEFEFE#64 = 0#64 →
    deriveSubkeys (key ^^^ m) = deriveSubkeys key ∧
    ∀ plaintext : BitVec 64, encryptBlock plaintext (key ^^^ m) = encryptBlock plaintext key) ∧
  (∀ (p p' : List Byte) (plaintext : BitVec 64),
    p.map (fun b => b &&& 0x7F#8) = p'.map (fun b => b &&& 0x7F#8) →
    encryptBlock plaintext (keyFromPasswordBytes p) = encryptBlock plaintext (keyFromPasswordBytes p'))

/-! ## FeistelRound and encryptBlock -/

/-- R150–R154: the five steps of the round function, group g = 1..8 at `x[53-6g : 48-6g]`, nibble g at
`y[35-4g : 32-4g]`. -/
def Obligations.RoundFunctionFollowsTheFiveSteps : Prop :=
  ∀ (rightHalf : BitVec 32) (subkey : BitVec 48) (s : State),
    ∃ y : BitVec 32,
      (∀ (g : Nat) (h1 : 1 ≤ g) (h8 : g ≤ 8),
        y.extractLsb' (32 - 4 * g) 4 =
          substitute ⟨g - 1, Nat.lt_of_lt_of_le (Nat.sub_lt h1 Nat.one_pos) h8⟩
            ((permute tableE rightHalf ^^^ subkey).extractLsb' (48 - 6 * g) 6)) ∧
      exec (.roundFunction rightHalf subkey) s = .next { s with fnOut := .word32 (permute tableP y) }

/-- R157: the result depends on the operands only through `permute(E, 32, rightHalf) xor subkey`; complementing both
leaves it unchanged. Derived by the spec from R150 to R154. -/
def Obligations.RoundFunctionSeesOnlyTheXor : Prop :=
  (∀ (r r' : BitVec 32) (k k' : BitVec 48), permute tableE r ^^^ k = permute tableE r' ^^^ k' →
    roundFunction r k = roundFunction r' k') ∧
  (∀ (r : BitVec 32) (k : BitVec 48), roundFunction (~~~r) (~~~k) = roundFunction r k)

/-- R170: `encryptBlock` by the source's five steps, with the halves L[i], R[i] named. -/
def Obligations.EncryptBlockFollowsTheFiveSteps : Prop :=
  ∀ (plaintext key : BitVec 64) (s : State),
    ∃ l r : Nat → BitVec 32,
      l 0 = (permute tableIP plaintext).extractLsb' 32 32 ∧ r 0 = (permute tableIP plaintext).extractLsb' 0 32 ∧
      (∀ i : Fin 16,
        l (i.val + 1) = r i.val ∧
        r (i.val + 1) = l i.val ^^^ roundFunction (r i.val) (deriveSubkeys key)[i.val]) ∧
      exec (.encryptBlock plaintext key) s =
        .next { s with fnOut := .block (permute tableFP (r 16 ++ l 16)) }

/-- The source's known-answer vector V1 (95_test_vectors.md), its traces V1a and V1b at their ends, and V5's first two
rows. -/
def Obligations.KnownAnswersHold : Prop :=
  encryptBlock 0x0123456789ABCDEF#64 0x133457799BBCDFF1#64 = 0x85E813540F0AB405#64 ∧
  (deriveSubkeys 0x133457799BBCDFF1#64)[0] = 0x1B02EFFC7072#48 ∧
  (deriveSubkeys 0x133457799BBCDFF1#64)[15] = 0xCB3D8B0E17F5#48 ∧
  dataHalves 0x0123456789ABCDEF#64 0x133457799BBCDFF1#64 16 = (0x43423234#32, 0x0A4CD995#32) ∧
  encryptBlock 0x0000000000000000#64 0x0000000000000000#64 = 0x8CA64DE9C1B123A7#64 ∧
  encryptBlock 0xFFFFFFFFFFFFFFFF#64 0xFFFFFFFFFFFFFFFF#64 = 0x7359B2163E4EDC58#64

/-- R173 (b): for a fixed key `encryptBlock` is a bijection on 64-bit values. Derived by the spec from R170. -/
def Obligations.EncryptBlockIsABijectionForEachKey : Prop :=
  ∀ key : BitVec 64,
    (∀ m m' : BitVec 64, encryptBlock m key = encryptBlock m' key → m = m') ∧
    (∀ ciphertext : BitVec 64, ∃ m : BitVec 64, encryptBlock m key = ciphertext)

/-- R173 (d): complementation. Derived by the spec from R157 and R170. -/
def Obligations.EncryptBlockCommutesWithComplement : Prop :=
  ∀ m key : BitVec 64, encryptBlock (~~~m) (~~~key) = ~~~(encryptBlock m key)

/-! ## Host procedures -/

/-- R210, R44: `bytesToWord` puts byte k at `v[63-8k : 56-8k]`, and `wordToBytes` is its inverse. -/
def Obligations.BytesToWordIsBigEndian : Prop :=
  (∀ (b : Bytes8) (s : State), exec (.bytesToWord b) s = .next { s with fnOut := .block (bytesToWord b) }) ∧
  (∀ (b : Bytes8) (k : Nat) (h : k < (bytesToList b).length),
    (bytesToWord b).extractLsb' (56 - 8 * k) 8 = (bytesToList b)[k]) ∧
  (∀ b : Bytes8, wordToBytes (bytesToWord b) = b) ∧
  (∀ v : BitVec 64, bytesToWord (wordToBytes v) = v)

/-- R211: every 8-byte message under every 8-byte key is one block. -/
def Obligations.EncryptOfEightBytesIsOneBlock : Prop :=
  ∀ (message key : List Byte) (s : State), message.length = 8 → key.length = 8 →
    ∃ m k : Bytes8, bytesToList m = message ∧ bytesToList k = key ∧
      exec (.encrypt8 message key) s = .next
        { s with
          fnOut := .bytes (bytesToList (wordToBytes (encryptBlock (bytesToWord m) (bytesToWord k)))) }

/-- R212: every 16-byte message is two independent blocks under the same key, the first 8 bytes first. -/
def Obligations.EncryptOfSixteenBytesIsTwoIndependentBlocks : Prop :=
  ∀ (message key : List Byte) (s : State), message.length = 16 → key.length = 8 →
    ∃ m0 m1 k : Bytes8, bytesToList m0 = message.take 8 ∧ bytesToList m1 = message.drop 8 ∧ bytesToList k = key ∧
      exec (.encrypt16 message key) s = .next
        { s with
          fnOut := .bytes
            (bytesToList (wordToBytes (encryptBlock (bytesToWord m0) (bytesToWord k))) ++
             bytesToList (wordToBytes (encryptBlock (bytesToWord m1) (bytesToWord k)))) }

/-- R213, R230: with an 8-byte key, a message of any length but 8 and 16 returns InvalidInputLength with its length, no
output and no engine command (no engine register changes); and with 8 or 16 bytes the error is never returned. -/
def Obligations.EncryptReturnsInvalidInputLengthExactly : Prop :=
  (∀ (message key : List Byte) (s : State), key.length = 8 → message.length ≠ 8 → message.length ≠ 16 →
    exec (.encryptBadlength message key) s = .next
      { s with fnOut := .error (.invalidInputLength message.length) }) ∧
  (∀ (message key : List Byte) (n : Nat), (message.length = 8 ∨ message.length = 16) →
    encryptBytes message key ≠ .error (.invalidInputLength n))

/-- R214, R235, R241: a key whose length is not 8 is refused before the message length is looked at. Each of the three rows
is taken with a message of any length, ill-formed terms among them: the model's choice, log 18. -/
def Obligations.EncryptChecksTheKeyLengthFirst : Prop :=
  ∀ (message key : List Byte) (i : Instr) (s : State), key.length ≠ 8 →
    (i = .encrypt8 message key ∨ i = .encrypt16 message key ∨ i = .encryptBadlength message key) →
    exec i s = .next { s with fnOut := .error (.invalidKeyLength key.length) }

/-- R215: `mirror8(b)[j] = b[7-j]`; it is its own inverse. -/
def Obligations.Mirror8ReversesTheBits : Prop :=
  (∀ (b : Byte) (s : State),
    ∃ out : Byte, exec (.mirror8 b) s = .next { s with fnOut := .byte out } ∧
      ∀ j : Nat, j ≤ 7 → out.getLsbD j = b.getLsbD (7 - j)) ∧
  (∀ b : Byte, mirror8 (mirror8 b) = b)

/-- R219: `mirror8` on all 8 bytes of a word is the permutation MIR. Derived by the spec from R215 and R90. -/
def Obligations.MirrorOfAWordIsAPermutation : Prop :=
  ∀ b : Bytes8,
    permute tableMIR (bytesToWord b) =
      bytesToWord ⟨mirror8 b.b0, mirror8 b.b1, mirror8 b.b2, mirror8 b.b3,
        mirror8 b.b4, mirror8 b.b5, mirror8 b.b6, mirror8 b.b7⟩

/-- R216, R217: byte j of the key is the mirror of byte j of the encoded password, zero past its end; bytes from the ninth
on are ignored; a text of the characters U+0020 to U+007E encodes to one byte per character, the character's code. -/
def Obligations.PasswordKeyMirrorsEachByte : Prop :=
  (∀ (password : Text) (s : State),
    ∃ kb : Bytes8,
      exec (.deriveKeyFromPassword password) s = .next { s with fnOut := .block (bytesToWord kb) } ∧
      ∀ (j : Nat) (h : j < (bytesToList kb).length),
        (∀ hp : j < (encodePassword password).length,
          (bytesToList kb)[j] = mirror8 (encodePassword password)[j]) ∧
        ((encodePassword password).length ≤ j → (bytesToList kb)[j] = 0x00#8)) ∧
  (∀ password : Text, (∀ ch ∈ password, 0x20 ≤ ch.toNat ∧ ch.toNat ≤ 0x7E) →
    (encodePassword password).map BitVec.toNat = password.map Char.toNat)

/-- R218: `encrypt(message, password)` is `encrypt` with the derived key, for every message: by the row of the message's
length, two lengths complete with bytes, any other with the error. -/
def Obligations.EncryptWithPasswordUsesTheDerivedKey : Prop :=
  ∀ (message : List Byte) (password : Text) (s : State),
    ∃ out : FnResult,
      exec (.encryptWithPassword message password) s = .next { s with fnOut := out } ∧
      (message.length = 8 →
        exec (.encrypt8 message (bytesToList (wordToBytes (deriveKeyFromPassword password)))) s =
          .next { s with fnOut := out }) ∧
      (message.length = 16 →
        exec (.encrypt16 message (bytesToList (wordToBytes (deriveKeyFromPassword password)))) s =
          .next { s with fnOut := out }) ∧
      (message.length ≠ 8 → message.length ≠ 16 →
        exec (.encryptBadlength message (bytesToList (wordToBytes (deriveKeyFromPassword password)))) s =
          .next { s with fnOut := out }) ∧
      ((message.length = 8 ∨ message.length = 16) → ∃ b : List Byte, out = .bytes b ∧ b.length = message.length) ∧
      (message.length ≠ 8 → message.length ≠ 16 → out = .error (.invalidInputLength message.length))

/-! ## The step -/

/-- R8, R61, R66, R70, R176: a step takes the sample the host presents (the first lined up, else a free value; logs 1 and
2) and, with `rst` = 0, runs the instruction the sample decodes to, then, while PHASE ≠ IDLE, the micro-operation the
PHASE before the edge decodes to. -/
def Obligations.StepRunsTheSampledCommand : Prop :=
  ∀ (s s0 : State) (p : PortIn) (i : Instr),
    ((∃ rest : List PortIn, s.host = p :: rest ∧ s0 = { s with host := rest }) ∨
      (s.host = [] ∧ p = Config.hostInput s.draws ∧ s0 = { s with draws := s.draws + 1 })) →
    p.rst = false → decode (.command p.word) = .ok i →
    (s.phase = .idle → step s = exec i s0) ∧
    (∀ (m : Instr) (t : State), s.phase ≠ .idle → decode (.phase s.phase.code) = .ok m → exec i s0 = .next t →
      step s = exec m t)

/-- R260 (the data registers take free values, log 5): at an edge with `rst` = 1, in any state and whatever `cmd` and
`din` are, control state and flags are cleared and no other rule fires; so reset aborts an operation (R261). -/
def Obligations.ResetEdgeClearsControlState : Prop :=
  ∀ (s : State) (p : PortIn), p.rst = true →
    ∃ t : State, edge p s = .next t ∧
      t.phase = .idle ∧ t.rnd = 0 ∧ t.kv = false ∧ t.bv = false ∧ t.done = false ∧ t.err = 0b000#3 ∧
      t.host = s.host ∧ t.fnOut = s.fnOut ∧
      busyPort t = false ∧ donePort t = false ∧ errPort t = 0b000#3

/-- R23, R24, R64: the output ports are functions of the state: `dout = DOUT`, `busy = (PHASE != 0b000)`, `done = DONE`,
`err = ERR`; STATUS bit 0 is BUSY, bit 1 DONE, bits 2 to 4 the ERR bits. -/
def Obligations.PortsShowTheRegisters : Prop :=
  ∀ s : State,
    doutPort s = s.dout ∧ (busyPort s = true ↔ s.phase ≠ .idle) ∧ donePort s = s.done ∧ errPort s = s.err ∧
    (statusBundle s).getLsbD 0 = busyPort s ∧ (statusBundle s).getLsbD 1 = donePort s ∧
    (statusBundle s).extractLsb' 2 3 = errPort s

/-- R232, R233, R234, R242: a faulting command has no effect but its ERR bit: the edge does exactly what it would have
done had the command been NOP, and then the bit is set; and every later edge, whatever is presented, does what it would
have done, but for ERR. -/
def Obligations.AFaultingCommandIsANopButForItsErrBit : Prop :=
  ∀ (p : PortIn) (s t : State), p.rst = false → faultOf p s ≠ 0b000#3 →
    edge { p with cmd := 0b000#3 } s = .next t →
    edge p s = .next { t with err := t.err ||| faultOf p s } ∧
    ∀ (later : List PortIn) (u : State), runEdges later t = .next u →
      ∃ e : BitVec 3, runEdges later { t with err := t.err ||| faultOf p s } = .next { u with err := e }

/-- R22, R241, R243: after an edge with `rst` = 0, ERR is the old ERR with the bit of this edge's fault, at most one,
added; so a bit, once 1, stays 1 until reset. R270 (with the readings of log 23): a host that keeps the discipline at an
edge raises no fault there, and along a whole run that keeps it from its first reset on, ERR is 0b000 (R244). -/
def Obligations.ErrAccumulatesExactlyTheFaults : Prop :=
  (∀ (p : PortIn) (s t : State), edge p s = .next t →
    (p.rst = false → t.err = s.err ||| faultOf p s) ∧ (p.rst = true → t.err = 0b000#3) ∧
    faultOf p s ∈ [0b000#3, 0b001#3, 0b010#3, 0b100#3] ∧
    (∀ a : HostAction, a.sample = p → Disciplined a s → t.err = if p.rst then 0b000#3 else s.err)) ∧
  (∀ (actions : List HostAction) (s t : State), actions ≠ [] → HostDiscipline actions s →
    runEdges (actions.map HostAction.sample) s = .next t → t.err = 0b000#3)

/-- R22, R244: no rule of the engine reads ERR: the edge from a state with another ERR differs in ERR only. -/
def Obligations.NoRuleReadsErr : Prop :=
  ∀ (p : PortIn) (s t : State) (e : BitVec 3), edge p s = .next t →
    ∃ e' : BitVec 3, edge p { s with err := e } = .next { t with err := e' }

/-- R10 to R22, R30: at an edge with `rst` = 0 each of the fourteen registers changes only where the table of R10 names a
writer: KEY by LDKEY and DIN by LDBLK in IDLE, C and D in KSPC1 and KSROT, SK in KSROT (one entry), L and R in IPERM and
ROUND, DOUT in FPERM, PHASE by START and every micro-operation, RND in KSPC1, KSROT, IPERM and ROUND, DONE in FPERM and by
START and the loads in IDLE, ERR by R181, R184 and R185; KV and BV are set by the loads and never cleared. -/
def Obligations.RegistersChangeOnlyByTheirWriters : Prop :=
  ∀ (p : PortIn) (s t : State), p.rst = false → edge p s = .next t →
    (t.key = s.key ∨ s.phase = .idle ∧ p.cmd = 0b001#3 ∧ t.key = p.din) ∧
    (t.din = s.din ∨ s.phase = .idle ∧ p.cmd = 0b010#3 ∧ t.din = p.din) ∧
    (t.c = s.c ∧ t.d = s.d ∨ s.phase = .kspc1 ∨ s.phase = .ksrot) ∧
    (t.sk = s.sk ∨ s.phase = .ksrot ∧ ∀ j : Fin 16, j.val + 1 ≠ s.rnd.val → t.sk[j.val] = s.sk[j.val]) ∧
    (t.l = s.l ∧ t.r = s.r ∨ s.phase = .iperm ∨ s.phase = .round) ∧
    (t.dout = s.dout ∨ s.phase = .fperm) ∧
    t.kv = (s.kv || decide (s.phase = .idle ∧ p.cmd = 0b001#3)) ∧
    t.bv = (s.bv || decide (s.phase = .idle ∧ p.cmd = 0b010#3)) ∧
    (t.phase = s.phase ∨ s.phase ≠ .idle ∨ p.cmd = 0b011#3) ∧
    (t.rnd = s.rnd ∨ s.phase = .kspc1 ∨ s.phase = .ksrot ∨ s.phase = .iperm ∨ s.phase = .round) ∧
    (t.done = s.done ∨ s.phase = .fperm ∨
      s.phase = .idle ∧ (p.cmd = 0b001#3 ∨ p.cmd = 0b010#3 ∨ p.cmd = 0b011#3)) ∧
    (t.err = s.err ∨ p.cmd.getLsbD 2 = true ∨ p.cmd = 0b011#3 ∨
      s.phase ≠ .idle ∧ (p.cmd = 0b001#3 ∨ p.cmd = 0b010#3)) ∧
    t.fnOut = s.fnOut

/-- R19: DONE is set by FPERM only and cleared by an accepted START, LDKEY or LDBLK. -/
def Obligations.DoneIsSetAndClearedAsStated : Prop :=
  ∀ (p : PortIn) (s t : State), p.rst = false → edge p s = .next t →
    t.done =
      if s.phase = .fperm then true
      else if s.phase = .idle ∧ (p.cmd = 0b001#3 ∨ p.cmd = 0b010#3 ∨ p.cmd = 0b011#3 ∧ s.kv = true ∧ s.bv = true)
      then false else s.done

/-- R20, R21: PHASE and RND advance as stated, from every state whose RND names a round where one is needed. -/
def Obligations.PhaseAndRoundAdvanceAsStated : Prop :=
  ∀ (p : PortIn) (s t : State), p.rst = false → edge p s = .next t →
    (s.phase = .idle → t.rnd = s.rnd ∧
      t.phase = if p.cmd = 0b011#3 ∧ s.kv = true ∧ s.bv = true then .kspc1 else .idle) ∧
    (s.phase = .kspc1 → t.phase = .ksrot ∧ t.rnd = 1) ∧
    (s.phase = .ksrot → s.rnd.val < 16 → t.phase = .ksrot ∧ t.rnd.val = s.rnd.val + 1) ∧
    (s.phase = .ksrot → s.rnd.val = 16 → t.phase = .iperm ∧ t.rnd = 0) ∧
    (s.phase = .iperm → t.phase = .round ∧ t.rnd = 1) ∧
    (s.phase = .round → s.rnd.val < 16 → t.phase = .round ∧ t.rnd.val = s.rnd.val + 1) ∧
    (s.phase = .round → s.rnd.val = 16 → t.phase = .fperm ∧ t.rnd = 0) ∧
    (s.phase = .fperm → t.phase = .idle ∧ t.rnd = s.rnd)

/-- R273: PHASE and RND after an edge do not depend on KEY, DIN or any other data register, or on `din`. Derived by the
spec from R186 to R190. -/
def Obligations.ControlDoesNotDependOnData : Prop :=
  ∀ (p p' : PortIn) (s s' t : State), p.rst = p'.rst → p.cmd = p'.cmd →
    s.phase = s'.phase → s.rnd = s'.rnd → s.kv = s'.kv → s.bv = s'.bv → edge p s = .next t →
    ∃ t' : State, edge p' s' = .next t' ∧ t'.phase = t.phase ∧ t'.rnd = t.rnd ∧ t'.kv = t.kv ∧ t'.bv = t.bv

/-! ## Invariants -/

/-- R29: the control values right after reset, as the spec states them; and R19, R28, R171: the control invariant and the
full invariant hold there. (The data registers of `State.reset` are the model's choice, log 4; no clause rests on
their values.) -/
def Obligations.ResetStateMeetsTheInvariants : Prop :=
  State.reset.phase = .idle ∧ State.reset.rnd = 0 ∧ State.reset.kv = false ∧ State.reset.bv = false ∧
  State.reset.done = false ∧ State.reset.err = 0b000#3 ∧
  ControlInv State.reset ∧ EngineInv State.reset

/-- R28: every step keeps the control invariant. Derived by the spec from R180 to R190 and R260. -/
def Obligations.EveryStepKeepsTheControlInv : Prop :=
  ∀ s t : State, ControlInv s → step s = .next t → ControlInv t

/-- R19, R28, R171: every step keeps the full invariant: in particular `DONE = 1 → DOUT = encryptBlock(DIN, KEY)`. -/
def Obligations.EveryStepKeepsTheEngineInv : Prop :=
  ∀ s t : State, EngineInv s → step s = .next t → EngineInv t

/-- R175, R237: from every state that meets the control invariant, a step answers a next state: no fault, no refusal. -/
def Obligations.NoReachableStepStops : Prop :=
  ∀ s : State, ControlInv s → ∃ t : State, step s = .next t

/-! ## One operation -/

/-- R191, R280: after an accepted START and k edges without reset, k = 0, …, 35, PHASE and RND are those of the timeline,
whatever commands the host presents meanwhile. Derived by the spec from R184 to R190. R76: WAIT met there is 35 - k lines
NOP; where `done` is 1 already it is no line, and where no number of NOPs suffices it has no expansion (the model's
choice, log 22). R76, R220, R280: from IDLE, ENCRYPT8 is 38 lines and ENCRYPT16 is 75, and what the host takes are the
ciphertexts of its blocks; realised by them after the length checks, `encrypt(message, key)` returns on the engine what
the procedure returns, issues no command where a check fails, and leaves ERR as it was. -/
def Obligations.OperationFollowsTheTimeline : Prop :=
  (∀ (s : State) (p : PortIn) (ps rest : List PortIn) (k : Nat),
    s.phase = .idle → s.rnd = 0 → s.kv = true → s.bv = true →
    s.host = p :: (ps ++ rest) → p.rst = false → p.cmd = 0b011#3 →
    ps.length = k → k ≤ 35 → (∀ q ∈ ps, q.rst = false) →
    ∃ t : State, Host.Core.run Sys2Proof.core (k + 1) s = .next t ∧ t.host = rest ∧ (t.phase, t.rnd) = timeline k ∧
      (k < 35 → t.done = false)) ∧
  (∀ (ignored : BitVec 64) (s : State) (k : Nat), k < 35 → (s.phase, s.rnd) = timeline k → s.done = false →
    waitLines ignored s = some (nopTimes (35 - k))) ∧
  (∀ (ignored : BitVec 64) (s : State),
    (s.done = true → waitLines ignored s = some []) ∧
    (s.done = false → s.phase = .idle → waitLines ignored s = none)) ∧
  (∀ (ignored key m0 m1 : BitVec 64) (s : State), s.phase = .idle →
    encrypt8Lines ignored key m0 s = some ([.ldkey key, .ldblk m0, .start] ++ nopTimes 35) ∧
    encrypt8Result ignored key m0 s = some (encryptBlock m0 key) ∧
    encrypt16Lines ignored key m0 m1 s =
      some ([.ldkey key, .ldblk m0, .start] ++ nopTimes 35 ++ ([.ldblk m1, .start] ++ nopTimes 35)) ∧
    encrypt16Result ignored key m0 m1 s = some (encryptBlock m0 key, encryptBlock m1 key)) ∧
  (∀ (ignored : BitVec 64) (message key : List Byte) (s : State), s.phase = .idle →
    encryptOnEngine ignored message key s = some (encryptBytes message key) ∧
    (message.length ≠ 8 ∧ message.length ≠ 16 ∨ key.length ≠ 8 → encryptLines ignored message key s = some []) ∧
    ∃ (lines : List Line) (t : State),
      encryptLines ignored message key s = some lines ∧ runLines ignored lines s = .next t ∧
        t.phase = .idle ∧ t.err = s.err)

/-- R171: if START is accepted with KEY = k and DIN = m and `rst` = 0 at the 35 edges after it, then DOUT =
`encryptBlock(m, k)`, DONE = 1, PHASE = IDLE, KEY = k, DIN = m, and ERR has changed only by faults of commands presented
meanwhile. Derived by the spec from R191. -/
def Obligations.OperationComputesEncryptBlock : Prop :=
  ∀ (s : State) (p : PortIn) (ps rest : List PortIn),
    s.phase = .idle → s.kv = true → s.bv = true →
    s.host = p :: (ps ++ rest) → p.rst = false → p.cmd = 0b011#3 →
    ps.length = 35 → (∀ q ∈ ps, q.rst = false) →
    ∃ t : State, Host.Core.run Sys2Proof.core 36 s = .next t ∧
      t.dout = encryptBlock s.din s.key ∧ t.done = true ∧ t.phase = .idle ∧ t.rnd = 0 ∧
      t.key = s.key ∧ t.din = s.din ∧ t.kv = true ∧ t.bv = true ∧ t.host = rest ∧
      t.err = ps.foldl
        (fun e q => e ||| (if q.cmd.getLsbD 2 then 0b001#3 else if q.cmd = 0b000#3 then 0b000#3 else 0b010#3)) s.err

/-- R27: statelessness: the value DOUT takes at the end of an operation depends on KEY and DIN at the accepted START
alone, not on any other register, nor on the commands presented meanwhile. Derived by the spec from R184 to R190. -/
def Obligations.ResultDependsOnKeyAndBlockAlone : Prop :=
  ∀ (s s' : State) (p p' : PortIn) (ps ps' rest rest' : List PortIn),
    s.key = s'.key → s.din = s'.din →
    s.phase = .idle → s'.phase = .idle →
    s.kv = true → s.bv = true → s'.kv = true → s'.bv = true →
    s.host = p :: (ps ++ rest) → s'.host = p' :: (ps' ++ rest') →
    p.rst = false → p.cmd = 0b011#3 → p'.rst = false → p'.cmd = 0b011#3 →
    ps.length = 35 → ps'.length = 35 → (∀ q ∈ ps, q.rst = false) → (∀ q ∈ ps', q.rst = false) →
    ∃ t t' : State,
      Host.Core.run Sys2Proof.core 36 s = .next t ∧ Host.Core.run Sys2Proof.core 36 s' = .next t' ∧
      t.dout = t'.dout ∧ t.done = true ∧ t'.done = true
end

