-- ==== Sys2Proof/Laws/Datapath.lean ====
section
/-! SUPPORT. One lemma per datapath function: bits of a permutation and of a rotation, the recursions of the key
schedule and of the rounds. -/

namespace Sys2Proof.Machine

/-- Output bit `j`, counted from the least significant, of a permutation. -/
theorem getLsbD_permute {w n : Nat} (t : PermTable w n) (v : BitVec w) (j : Nat) :
    (permute t v).getLsbD j = (decide (j < n) && v.getLsbD (w - t.entries.getD (n - 1 - j) w)) := by
  have hl := t.length_eq
  by_cases h : j < n
  · have h1 : n - 1 - j < t.entries.length := by omega
    simp only [permute, BitVec.getLsbD_setWidth, BitVec.getLsbD_ofBoolListBE, List.length_map, hl, h, decide_true,
      Bool.true_and]
    simp [List.getD_eq_getElem?_getD, h1]
  · have h' : n ≤ j := by omega
    simp [h, BitVec.getLsbD_of_ge _ _ h']

/-- Every entry a permutation reads is within its bounds. -/
theorem PermTable.entry_range {w n : Nat} (t : PermTable w n) {p : Nat} (h : p ∈ t.entries) : 1 ≤ p ∧ p ≤ w := by
  have := t.inRange
  simp only [tableInRange, List.all_eq_true, decide_eq_true_eq] at this
  exact this p h

theorem keyHalves_zero (key : BitVec 64) : keyHalves key 0 = initialKeyHalves key := rfl

theorem keyHalves_succ (key : BitVec 64) (i : Nat) :
    keyHalves key (i + 1) = rotateKeyHalves (i + 1) (keyHalves key i) := rfl

theorem deriveSubkeys_getElem (key : BitVec 64) (i : Nat) (h : i < 16) :
    (deriveSubkeys key)[i] = compressKeyHalves (keyHalves key (i + 1)) := by
  simp [deriveSubkeys]

theorem dataHalves_zero (m key : BitVec 64) : dataHalves m key 0 = initialDataHalves m := by
  simp [dataHalves]

/-- One round more of `encryptBlock`. -/
theorem dataHalves_succ (m key : BitVec 64) (i : Nat) (h : i < 16) :
    dataHalves m key (i + 1) = feistelRound (dataHalves m key i) (deriveSubkeys key)[i] := by
  unfold dataHalves
  have hl : i < (deriveSubkeys key).toList.length := by simpa using h
  rw [List.take_succ_eq_append_getElem hl, List.foldl_append]
  simp

/-- A sequence of length 8 is eight bytes. -/
theorem listToBytes_of_length {l : List Byte} (h : l.length = 8) :
    ∃ b : Bytes8, listToBytes l = some b ∧ bytesToList b = l := by
  match l, h with
  | [_, _, _, _, _, _, _, _], _ => exact ⟨_, rfl, rfl⟩

/-- A sequence of any other length is not. -/
theorem listToBytes_eq_none {l : List Byte} (h : l.length ≠ 8) : listToBytes l = none := by
  match l, h with
  | [], _ => rfl
  | [_], _ => rfl
  | [_, _], _ => rfl
  | [_, _, _], _ => rfl
  | [_, _, _, _], _ => rfl
  | [_, _, _, _, _], _ => rfl
  | [_, _, _, _, _, _], _ => rfl
  | [_, _, _, _, _, _, _], _ => rfl
  | [_, _, _, _, _, _, _, _], h => exact absurd rfl h
  | _ :: _ :: _ :: _ :: _ :: _ :: _ :: _ :: _ :: _, _ => rfl

/-- The three things `encrypt` can ask for or refuse (R211 to R214). -/
theorem encryptRequest_cases (message key : List Byte) :
    (key.length ≠ 8 ∧ encryptRequest message key = .error (.invalidKeyLength key.length)) ∨
    (key.length = 8 ∧ message.length ≠ 8 ∧ message.length ≠ 16 ∧
      encryptRequest message key = .error (.invalidInputLength message.length)) ∨
    (key.length = 8 ∧ message.length = 8 ∧ ∃ k m : Bytes8, bytesToList k = key ∧ bytesToList m = message ∧
      encryptRequest message key = .ok (.one (bytesToWord k) (bytesToWord m))) ∨
    (key.length = 8 ∧ message.length = 16 ∧ ∃ k m0 m1 : Bytes8, bytesToList k = key ∧
      bytesToList m0 = message.take 8 ∧ bytesToList m1 = message.drop 8 ∧
      encryptRequest message key = .ok (.two (bytesToWord k) (bytesToWord m0) (bytesToWord m1))) := by
  by_cases hk : key.length = 8
  · obtain ⟨k, hk1, hk2⟩ := listToBytes_of_length hk
    by_cases h8 : message.length = 8
    · obtain ⟨m, hm1, hm2⟩ := listToBytes_of_length h8
      exact .inr (.inr (.inl ⟨hk, h8, k, m, hk2, hm2, by simp [encryptRequest, hk1, hm1]⟩))
    · by_cases h16 : message.length = 16
      · obtain ⟨m0, h01, h02⟩ := listToBytes_of_length (l := message.take 8) (by simp; omega)
        obtain ⟨m1, h11, h12⟩ := listToBytes_of_length (l := message.drop 8) (by simp; omega)
        exact .inr (.inr (.inr ⟨hk, h16, k, m0, m1, hk2, h02, h12,
          by simp [encryptRequest, hk1, listToBytes_eq_none h8, h01, h11]⟩))
      · refine .inr (.inl ⟨hk, h8, h16, ?_⟩)
        by_cases hlt : message.length < 8
        · have h0 := listToBytes_eq_none (l := message.take 8) (by simp; omega)
          simp [encryptRequest, hk1, listToBytes_eq_none h8, h0]
        · have h1 := listToBytes_eq_none (l := message.drop 8) (by simp; omega)
          simp only [encryptRequest, hk1, listToBytes_eq_none h8, h1]
          split <;> simp_all
  · exact .inl ⟨hk, by simp [encryptRequest, listToBytes_eq_none hk]⟩

theorem encryptBytes_of_ok {message key : List Byte} {request : EncryptRequest}
    (h : encryptRequest message key = .ok request) : encryptBytes message key = .ok (requestBytes request) := by
  simp [encryptBytes, h]

theorem encryptBytes_of_error {message key : List Byte} {e : HostError} (h : encryptRequest message key = .error e) :
    encryptBytes message key = .error e := by
  simp [encryptBytes, h]

theorem encryptBlock_eq (m key : BitVec 64) : encryptBlock m key = finalBlock (dataHalves m key 16) := rfl

end Sys2Proof.Machine
end

