-- ==== Sys2Proof/Laws/Decode.lean ====
section
/-! SUPPORT. The fields of a command sample and of a LUT address, and what each code decodes to. -/

namespace Sys2Proof

/-- Bit `j` of a command sample (log 7). -/
theorem getLsbD_commandWord (cmd : BitVec 3) (din : BitVec 64) (j : Nat) :
    (commandWord cmd din).getLsbD j = if j < 3 then cmd.getLsbD j else din.getLsbD (j - 3) := by
  unfold commandWord
  exact (BitVec.getLsbD_append (x := din) (y := cmd)).trans (by split <;> simp_all)

/-- Bit `j` of a LUT address (R42). -/
theorem getLsbD_lutAddress (box : BitVec 3) (row : BitVec 2) (col : BitVec 4) (j : Nat) :
    (lutAddress box row col).getLsbD j =
      if j < 4 then col.getLsbD j else if j - 4 < 2 then row.getLsbD (j - 4) else box.getLsbD (j - 4 - 2) := by
  unfold lutAddress
  refine (BitVec.getLsbD_append (x := box ++ row) (y := col)).trans ?_
  split
  · rfl
  · exact (BitVec.getLsbD_append (x := box) (y := row)).trans rfl

@[simp] theorem cmdField_commandWord (cmd : BitVec 3) (din : BitVec 64) : cmdField (commandWord cmd din) = cmd := by
  apply BitVec.eq_of_getLsbD_eq
  intro i hi
  simp [cmdField, getLsbD_commandWord, hi]

@[simp] theorem dinField_commandWord (cmd : BitVec 3) (din : BitVec 64) : dinField (commandWord cmd din) = din := by
  apply BitVec.eq_of_getLsbD_eq
  intro i hi
  simp [dinField, getLsbD_commandWord, hi]

/-- A sample is its two fields. -/
theorem commandWord_fields (w : BitVec 67) : commandWord (cmdField w) (dinField w) = w := by
  apply BitVec.eq_of_getLsbD_eq
  intro i hi
  rw [getLsbD_commandWord]
  split
  · next h => simp [cmdField, h]
  · next h =>
    have h3 : 3 + (i - 3) = i := by omega
    have h64 : i - 3 < 64 := by omega
    simp [dinField, h3, h64]

@[simp] theorem lutBox_lutAddress (box : BitVec 3) (row : BitVec 2) (col : BitVec 4) :
    lutBox (lutAddress box row col) = box := by
  apply BitVec.eq_of_getLsbD_eq
  intro i hi
  have h1 : ¬ (6 + i < 4) := by omega
  have h2 : ¬ (6 + i - 4 < 2) := by omega
  have h3 : 6 + i - 4 - 2 = i := by omega
  simp [lutBox, getLsbD_lutAddress, hi, h1, h2, h3]

@[simp] theorem lutRow_lutAddress (box : BitVec 3) (row : BitVec 2) (col : BitVec 4) :
    lutRow (lutAddress box row col) = row := by
  apply BitVec.eq_of_getLsbD_eq
  intro i hi
  simp [lutRow, getLsbD_lutAddress, hi]

@[simp] theorem lutCol_lutAddress (box : BitVec 3) (row : BitVec 2) (col : BitVec 4) :
    lutCol (lutAddress box row col) = col := by
  apply BitVec.eq_of_getLsbD_eq
  intro i hi
  simp [lutCol, getLsbD_lutAddress, hi]

/-- The command a sample presents, by its code (R66). -/
theorem decodeCommand_word (cmd : BitVec 3) (din : BitVec 64) :
    decode (.command (commandWord cmd din)) =
      .ok (if cmd = 0b000#3 then .nop else if cmd = 0b001#3 then .ldkey din else if cmd = 0b010#3 then .ldblk din
        else if cmd = 0b011#3 then .start else .rsvd (cmd.extractLsb' 0 2)) := by
  simp only [decode, decodeCommand, cmdField_commandWord, dinField_commandWord]
  have h : cmd = 0#3 ∨ cmd = 1#3 ∨ cmd = 2#3 ∨ cmd = 3#3 ∨ cmd = 4#3 ∨ cmd = 5#3 ∨ cmd = 6#3 ∨ cmd = 7#3 := by
    revert cmd; decide
  rcases h with h | h | h | h | h | h | h | h <;> subst h <;> rfl

/-- The eight values of a command code. -/
theorem cmd_cases (cmd : BitVec 3) :
    cmd = 0b000#3 ∨ cmd = 0b001#3 ∨ cmd = 0b010#3 ∨ cmd = 0b011#3 ∨ cmd.getLsbD 2 = true := by
  revert cmd; decide

end Sys2Proof
end

