-- ==== Sys2Proof/Laws/State.lean ====
section
/-! SUPPORT. One lemma per field per shared update of the state, true by unfolding, so that no proof unfolds a record
update. -/

namespace Sys2Proof.Machine

/-! ### raiseFault -/

@[simp] theorem raiseFault_key (bit : BitVec 3) (s : State) : (raiseFault bit s).key = s.key := rfl
@[simp] theorem raiseFault_din (bit : BitVec 3) (s : State) : (raiseFault bit s).din = s.din := rfl
@[simp] theorem raiseFault_c (bit : BitVec 3) (s : State) : (raiseFault bit s).c = s.c := rfl
@[simp] theorem raiseFault_d (bit : BitVec 3) (s : State) : (raiseFault bit s).d = s.d := rfl
@[simp] theorem raiseFault_sk (bit : BitVec 3) (s : State) : (raiseFault bit s).sk = s.sk := rfl
@[simp] theorem raiseFault_l (bit : BitVec 3) (s : State) : (raiseFault bit s).l = s.l := rfl
@[simp] theorem raiseFault_r (bit : BitVec 3) (s : State) : (raiseFault bit s).r = s.r := rfl
@[simp] theorem raiseFault_dout (bit : BitVec 3) (s : State) : (raiseFault bit s).dout = s.dout := rfl
@[simp] theorem raiseFault_phase (bit : BitVec 3) (s : State) : (raiseFault bit s).phase = s.phase := rfl
@[simp] theorem raiseFault_rnd (bit : BitVec 3) (s : State) : (raiseFault bit s).rnd = s.rnd := rfl
@[simp] theorem raiseFault_kv (bit : BitVec 3) (s : State) : (raiseFault bit s).kv = s.kv := rfl
@[simp] theorem raiseFault_bv (bit : BitVec 3) (s : State) : (raiseFault bit s).bv = s.bv := rfl
@[simp] theorem raiseFault_done (bit : BitVec 3) (s : State) : (raiseFault bit s).done = s.done := rfl
@[simp] theorem raiseFault_err (bit : BitVec 3) (s : State) : (raiseFault bit s).err = s.err ||| bit := rfl
@[simp] theorem raiseFault_host (bit : BitVec 3) (s : State) : (raiseFault bit s).host = s.host := rfl
@[simp] theorem raiseFault_draws (bit : BitVec 3) (s : State) : (raiseFault bit s).draws = s.draws := rfl
@[simp] theorem raiseFault_fnOut (bit : BitVec 3) (s : State) : (raiseFault bit s).fnOut = s.fnOut := rfl

/-! ### loadKey -/

@[simp] theorem loadKey_key (key : BitVec 64) (s : State) : (loadKey key s).key = key := rfl
@[simp] theorem loadKey_din (key : BitVec 64) (s : State) : (loadKey key s).din = s.din := rfl
@[simp] theorem loadKey_c (key : BitVec 64) (s : State) : (loadKey key s).c = s.c := rfl
@[simp] theorem loadKey_d (key : BitVec 64) (s : State) : (loadKey key s).d = s.d := rfl
@[simp] theorem loadKey_sk (key : BitVec 64) (s : State) : (loadKey key s).sk = s.sk := rfl
@[simp] theorem loadKey_l (key : BitVec 64) (s : State) : (loadKey key s).l = s.l := rfl
@[simp] theorem loadKey_r (key : BitVec 64) (s : State) : (loadKey key s).r = s.r := rfl
@[simp] theorem loadKey_dout (key : BitVec 64) (s : State) : (loadKey key s).dout = s.dout := rfl
@[simp] theorem loadKey_phase (key : BitVec 64) (s : State) : (loadKey key s).phase = s.phase := rfl
@[simp] theorem loadKey_rnd (key : BitVec 64) (s : State) : (loadKey key s).rnd = s.rnd := rfl
@[simp] theorem loadKey_kv (key : BitVec 64) (s : State) : (loadKey key s).kv = true := rfl
@[simp] theorem loadKey_bv (key : BitVec 64) (s : State) : (loadKey key s).bv = s.bv := rfl
@[simp] theorem loadKey_done (key : BitVec 64) (s : State) : (loadKey key s).done = false := rfl
@[simp] theorem loadKey_err (key : BitVec 64) (s : State) : (loadKey key s).err = s.err := rfl
@[simp] theorem loadKey_host (key : BitVec 64) (s : State) : (loadKey key s).host = s.host := rfl
@[simp] theorem loadKey_draws (key : BitVec 64) (s : State) : (loadKey key s).draws = s.draws := rfl
@[simp] theorem loadKey_fnOut (key : BitVec 64) (s : State) : (loadKey key s).fnOut = s.fnOut := rfl

/-! ### loadBlock -/

@[simp] theorem loadBlock_key (block : BitVec 64) (s : State) : (loadBlock block s).key = s.key := rfl
@[simp] theorem loadBlock_din (block : BitVec 64) (s : State) : (loadBlock block s).din = block := rfl
@[simp] theorem loadBlock_c (block : BitVec 64) (s : State) : (loadBlock block s).c = s.c := rfl
@[simp] theorem loadBlock_d (block : BitVec 64) (s : State) : (loadBlock block s).d = s.d := rfl
@[simp] theorem loadBlock_sk (block : BitVec 64) (s : State) : (loadBlock block s).sk = s.sk := rfl
@[simp] theorem loadBlock_l (block : BitVec 64) (s : State) : (loadBlock block s).l = s.l := rfl
@[simp] theorem loadBlock_r (block : BitVec 64) (s : State) : (loadBlock block s).r = s.r := rfl
@[simp] theorem loadBlock_dout (block : BitVec 64) (s : State) : (loadBlock block s).dout = s.dout := rfl
@[simp] theorem loadBlock_phase (block : BitVec 64) (s : State) : (loadBlock block s).phase = s.phase := rfl
@[simp] theorem loadBlock_rnd (block : BitVec 64) (s : State) : (loadBlock block s).rnd = s.rnd := rfl
@[simp] theorem loadBlock_kv (block : BitVec 64) (s : State) : (loadBlock block s).kv = s.kv := rfl
@[simp] theorem loadBlock_bv (block : BitVec 64) (s : State) : (loadBlock block s).bv = true := rfl
@[simp] theorem loadBlock_done (block : BitVec 64) (s : State) : (loadBlock block s).done = false := rfl
@[simp] theorem loadBlock_err (block : BitVec 64) (s : State) : (loadBlock block s).err = s.err := rfl
@[simp] theorem loadBlock_host (block : BitVec 64) (s : State) : (loadBlock block s).host = s.host := rfl
@[simp] theorem loadBlock_draws (block : BitVec 64) (s : State) : (loadBlock block s).draws = s.draws := rfl
@[simp] theorem loadBlock_fnOut (block : BitVec 64) (s : State) : (loadBlock block s).fnOut = s.fnOut := rfl

/-! ### setKeyHalves -/

@[simp] theorem setKeyHalves_key (cd : KeyHalf × KeyHalf) (s : State) : (setKeyHalves cd s).key = s.key := rfl
@[simp] theorem setKeyHalves_din (cd : KeyHalf × KeyHalf) (s : State) : (setKeyHalves cd s).din = s.din := rfl
@[simp] theorem setKeyHalves_c (cd : KeyHalf × KeyHalf) (s : State) : (setKeyHalves cd s).c = cd.1 := rfl
@[simp] theorem setKeyHalves_d (cd : KeyHalf × KeyHalf) (s : State) : (setKeyHalves cd s).d = cd.2 := rfl
@[simp] theorem setKeyHalves_sk (cd : KeyHalf × KeyHalf) (s : State) : (setKeyHalves cd s).sk = s.sk := rfl
@[simp] theorem setKeyHalves_l (cd : KeyHalf × KeyHalf) (s : State) : (setKeyHalves cd s).l = s.l := rfl
@[simp] theorem setKeyHalves_r (cd : KeyHalf × KeyHalf) (s : State) : (setKeyHalves cd s).r = s.r := rfl
@[simp] theorem setKeyHalves_dout (cd : KeyHalf × KeyHalf) (s : State) : (setKeyHalves cd s).dout = s.dout := rfl
@[simp] theorem setKeyHalves_phase (cd : KeyHalf × KeyHalf) (s : State) : (setKeyHalves cd s).phase = s.phase := rfl
@[simp] theorem setKeyHalves_rnd (cd : KeyHalf × KeyHalf) (s : State) : (setKeyHalves cd s).rnd = s.rnd := rfl
@[simp] theorem setKeyHalves_kv (cd : KeyHalf × KeyHalf) (s : State) : (setKeyHalves cd s).kv = s.kv := rfl
@[simp] theorem setKeyHalves_bv (cd : KeyHalf × KeyHalf) (s : State) : (setKeyHalves cd s).bv = s.bv := rfl
@[simp] theorem setKeyHalves_done (cd : KeyHalf × KeyHalf) (s : State) : (setKeyHalves cd s).done = s.done := rfl
@[simp] theorem setKeyHalves_err (cd : KeyHalf × KeyHalf) (s : State) : (setKeyHalves cd s).err = s.err := rfl
@[simp] theorem setKeyHalves_host (cd : KeyHalf × KeyHalf) (s : State) : (setKeyHalves cd s).host = s.host := rfl
@[simp] theorem setKeyHalves_draws (cd : KeyHalf × KeyHalf) (s : State) : (setKeyHalves cd s).draws = s.draws := rfl
@[simp] theorem setKeyHalves_fnOut (cd : KeyHalf × KeyHalf) (s : State) : (setKeyHalves cd s).fnOut = s.fnOut := rfl

/-! ### setDataHalves -/

@[simp] theorem setDataHalves_key (lr : DataHalf × DataHalf) (s : State) : (setDataHalves lr s).key = s.key := rfl
@[simp] theorem setDataHalves_din (lr : DataHalf × DataHalf) (s : State) : (setDataHalves lr s).din = s.din := rfl
@[simp] theorem setDataHalves_c (lr : DataHalf × DataHalf) (s : State) : (setDataHalves lr s).c = s.c := rfl
@[simp] theorem setDataHalves_d (lr : DataHalf × DataHalf) (s : State) : (setDataHalves lr s).d = s.d := rfl
@[simp] theorem setDataHalves_sk (lr : DataHalf × DataHalf) (s : State) : (setDataHalves lr s).sk = s.sk := rfl
@[simp] theorem setDataHalves_l (lr : DataHalf × DataHalf) (s : State) : (setDataHalves lr s).l = lr.1 := rfl
@[simp] theorem setDataHalves_r (lr : DataHalf × DataHalf) (s : State) : (setDataHalves lr s).r = lr.2 := rfl
@[simp] theorem setDataHalves_dout (lr : DataHalf × DataHalf) (s : State) : (setDataHalves lr s).dout = s.dout := rfl
@[simp] theorem setDataHalves_phase (lr : DataHalf × DataHalf) (s : State) : (setDataHalves lr s).phase = s.phase := rfl
@[simp] theorem setDataHalves_rnd (lr : DataHalf × DataHalf) (s : State) : (setDataHalves lr s).rnd = s.rnd := rfl
@[simp] theorem setDataHalves_kv (lr : DataHalf × DataHalf) (s : State) : (setDataHalves lr s).kv = s.kv := rfl
@[simp] theorem setDataHalves_bv (lr : DataHalf × DataHalf) (s : State) : (setDataHalves lr s).bv = s.bv := rfl
@[simp] theorem setDataHalves_done (lr : DataHalf × DataHalf) (s : State) : (setDataHalves lr s).done = s.done := rfl
@[simp] theorem setDataHalves_err (lr : DataHalf × DataHalf) (s : State) : (setDataHalves lr s).err = s.err := rfl
@[simp] theorem setDataHalves_host (lr : DataHalf × DataHalf) (s : State) : (setDataHalves lr s).host = s.host := rfl
@[simp] theorem setDataHalves_draws (lr : DataHalf × DataHalf) (s : State) : (setDataHalves lr s).draws = s.draws := rfl
@[simp] theorem setDataHalves_fnOut (lr : DataHalf × DataHalf) (s : State) : (setDataHalves lr s).fnOut = s.fnOut := rfl

/-! ### writeSubkey -/

@[simp] theorem writeSubkey_key (i : Fin 16) (k : Subkey) (s : State) : (writeSubkey i k s).key = s.key := rfl
@[simp] theorem writeSubkey_din (i : Fin 16) (k : Subkey) (s : State) : (writeSubkey i k s).din = s.din := rfl
@[simp] theorem writeSubkey_c (i : Fin 16) (k : Subkey) (s : State) : (writeSubkey i k s).c = s.c := rfl
@[simp] theorem writeSubkey_d (i : Fin 16) (k : Subkey) (s : State) : (writeSubkey i k s).d = s.d := rfl
@[simp] theorem writeSubkey_sk (i : Fin 16) (k : Subkey) (s : State) : (writeSubkey i k s).sk = s.sk.set i.val k i.isLt := rfl
@[simp] theorem writeSubkey_l (i : Fin 16) (k : Subkey) (s : State) : (writeSubkey i k s).l = s.l := rfl
@[simp] theorem writeSubkey_r (i : Fin 16) (k : Subkey) (s : State) : (writeSubkey i k s).r = s.r := rfl
@[simp] theorem writeSubkey_dout (i : Fin 16) (k : Subkey) (s : State) : (writeSubkey i k s).dout = s.dout := rfl
@[simp] theorem writeSubkey_phase (i : Fin 16) (k : Subkey) (s : State) : (writeSubkey i k s).phase = s.phase := rfl
@[simp] theorem writeSubkey_rnd (i : Fin 16) (k : Subkey) (s : State) : (writeSubkey i k s).rnd = s.rnd := rfl
@[simp] theorem writeSubkey_kv (i : Fin 16) (k : Subkey) (s : State) : (writeSubkey i k s).kv = s.kv := rfl
@[simp] theorem writeSubkey_bv (i : Fin 16) (k : Subkey) (s : State) : (writeSubkey i k s).bv = s.bv := rfl
@[simp] theorem writeSubkey_done (i : Fin 16) (k : Subkey) (s : State) : (writeSubkey i k s).done = s.done := rfl
@[simp] theorem writeSubkey_err (i : Fin 16) (k : Subkey) (s : State) : (writeSubkey i k s).err = s.err := rfl
@[simp] theorem writeSubkey_host (i : Fin 16) (k : Subkey) (s : State) : (writeSubkey i k s).host = s.host := rfl
@[simp] theorem writeSubkey_draws (i : Fin 16) (k : Subkey) (s : State) : (writeSubkey i k s).draws = s.draws := rfl
@[simp] theorem writeSubkey_fnOut (i : Fin 16) (k : Subkey) (s : State) : (writeSubkey i k s).fnOut = s.fnOut := rfl

/-! ### enterRounds -/

@[simp] theorem enterRounds_key (loop : Phase) (s : State) : (enterRounds loop s).key = s.key := rfl
@[simp] theorem enterRounds_din (loop : Phase) (s : State) : (enterRounds loop s).din = s.din := rfl
@[simp] theorem enterRounds_c (loop : Phase) (s : State) : (enterRounds loop s).c = s.c := rfl
@[simp] theorem enterRounds_d (loop : Phase) (s : State) : (enterRounds loop s).d = s.d := rfl
@[simp] theorem enterRounds_sk (loop : Phase) (s : State) : (enterRounds loop s).sk = s.sk := rfl
@[simp] theorem enterRounds_l (loop : Phase) (s : State) : (enterRounds loop s).l = s.l := rfl
@[simp] theorem enterRounds_r (loop : Phase) (s : State) : (enterRounds loop s).r = s.r := rfl
@[simp] theorem enterRounds_dout (loop : Phase) (s : State) : (enterRounds loop s).dout = s.dout := rfl
@[simp] theorem enterRounds_phase (loop : Phase) (s : State) : (enterRounds loop s).phase = loop := rfl
@[simp] theorem enterRounds_rnd (loop : Phase) (s : State) : (enterRounds loop s).rnd = 1 := rfl
@[simp] theorem enterRounds_kv (loop : Phase) (s : State) : (enterRounds loop s).kv = s.kv := rfl
@[simp] theorem enterRounds_bv (loop : Phase) (s : State) : (enterRounds loop s).bv = s.bv := rfl
@[simp] theorem enterRounds_done (loop : Phase) (s : State) : (enterRounds loop s).done = s.done := rfl
@[simp] theorem enterRounds_err (loop : Phase) (s : State) : (enterRounds loop s).err = s.err := rfl
@[simp] theorem enterRounds_host (loop : Phase) (s : State) : (enterRounds loop s).host = s.host := rfl
@[simp] theorem enterRounds_draws (loop : Phase) (s : State) : (enterRounds loop s).draws = s.draws := rfl
@[simp] theorem enterRounds_fnOut (loop : Phase) (s : State) : (enterRounds loop s).fnOut = s.fnOut := rfl

/-! ### advanceRound -/

@[simp] theorem advanceRound_key (after : Phase) (s : State) : (advanceRound after s).key = s.key := by
  unfold advanceRound; split <;> rfl
@[simp] theorem advanceRound_din (after : Phase) (s : State) : (advanceRound after s).din = s.din := by
  unfold advanceRound; split <;> rfl
@[simp] theorem advanceRound_c (after : Phase) (s : State) : (advanceRound after s).c = s.c := by
  unfold advanceRound; split <;> rfl
@[simp] theorem advanceRound_d (after : Phase) (s : State) : (advanceRound after s).d = s.d := by
  unfold advanceRound; split <;> rfl
@[simp] theorem advanceRound_sk (after : Phase) (s : State) : (advanceRound after s).sk = s.sk := by
  unfold advanceRound; split <;> rfl
@[simp] theorem advanceRound_l (after : Phase) (s : State) : (advanceRound after s).l = s.l := by
  unfold advanceRound; split <;> rfl
@[simp] theorem advanceRound_r (after : Phase) (s : State) : (advanceRound after s).r = s.r := by
  unfold advanceRound; split <;> rfl
@[simp] theorem advanceRound_dout (after : Phase) (s : State) : (advanceRound after s).dout = s.dout := by
  unfold advanceRound; split <;> rfl
@[simp] theorem advanceRound_phase (after : Phase) (s : State) : (advanceRound after s).phase = if s.rnd < 16 then s.phase else after := by
  unfold advanceRound; split <;> rfl
@[simp] theorem advanceRound_rnd (after : Phase) (s : State) : (advanceRound after s).rnd = if s.rnd < 16 then s.rnd + 1 else 0 := by
  unfold advanceRound; split <;> rfl
@[simp] theorem advanceRound_kv (after : Phase) (s : State) : (advanceRound after s).kv = s.kv := by
  unfold advanceRound; split <;> rfl
@[simp] theorem advanceRound_bv (after : Phase) (s : State) : (advanceRound after s).bv = s.bv := by
  unfold advanceRound; split <;> rfl
@[simp] theorem advanceRound_done (after : Phase) (s : State) : (advanceRound after s).done = s.done := by
  unfold advanceRound; split <;> rfl
@[simp] theorem advanceRound_err (after : Phase) (s : State) : (advanceRound after s).err = s.err := by
  unfold advanceRound; split <;> rfl
@[simp] theorem advanceRound_host (after : Phase) (s : State) : (advanceRound after s).host = s.host := by
  unfold advanceRound; split <;> rfl
@[simp] theorem advanceRound_draws (after : Phase) (s : State) : (advanceRound after s).draws = s.draws := by
  unfold advanceRound; split <;> rfl
@[simp] theorem advanceRound_fnOut (after : Phase) (s : State) : (advanceRound after s).fnOut = s.fnOut := by
  unfold advanceRound; split <;> rfl

/-! ### deliver -/

@[simp] theorem deliver_key (v : FnResult) (s : State) : (deliver v s).key = s.key := rfl
@[simp] theorem deliver_din (v : FnResult) (s : State) : (deliver v s).din = s.din := rfl
@[simp] theorem deliver_c (v : FnResult) (s : State) : (deliver v s).c = s.c := rfl
@[simp] theorem deliver_d (v : FnResult) (s : State) : (deliver v s).d = s.d := rfl
@[simp] theorem deliver_sk (v : FnResult) (s : State) : (deliver v s).sk = s.sk := rfl
@[simp] theorem deliver_l (v : FnResult) (s : State) : (deliver v s).l = s.l := rfl
@[simp] theorem deliver_r (v : FnResult) (s : State) : (deliver v s).r = s.r := rfl
@[simp] theorem deliver_dout (v : FnResult) (s : State) : (deliver v s).dout = s.dout := rfl
@[simp] theorem deliver_phase (v : FnResult) (s : State) : (deliver v s).phase = s.phase := rfl
@[simp] theorem deliver_rnd (v : FnResult) (s : State) : (deliver v s).rnd = s.rnd := rfl
@[simp] theorem deliver_kv (v : FnResult) (s : State) : (deliver v s).kv = s.kv := rfl
@[simp] theorem deliver_bv (v : FnResult) (s : State) : (deliver v s).bv = s.bv := rfl
@[simp] theorem deliver_done (v : FnResult) (s : State) : (deliver v s).done = s.done := rfl
@[simp] theorem deliver_err (v : FnResult) (s : State) : (deliver v s).err = s.err := rfl
@[simp] theorem deliver_host (v : FnResult) (s : State) : (deliver v s).host = s.host := rfl
@[simp] theorem deliver_draws (v : FnResult) (s : State) : (deliver v s).draws = s.draws := rfl
@[simp] theorem deliver_fnOut (v : FnResult) (s : State) : (deliver v s).fnOut = v := rfl

/-! ### takeSample -/

@[simp] theorem takeSample_key (s : State) : (takeSample s).key = s.key := by
  cases s with | mk k di c d sk l r do_ ph rn kv bv dn er ho dr fo => cases ho <;> rfl
@[simp] theorem takeSample_din (s : State) : (takeSample s).din = s.din := by
  cases s with | mk k di c d sk l r do_ ph rn kv bv dn er ho dr fo => cases ho <;> rfl
@[simp] theorem takeSample_c (s : State) : (takeSample s).c = s.c := by
  cases s with | mk k di c d sk l r do_ ph rn kv bv dn er ho dr fo => cases ho <;> rfl
@[simp] theorem takeSample_d (s : State) : (takeSample s).d = s.d := by
  cases s with | mk k di c d sk l r do_ ph rn kv bv dn er ho dr fo => cases ho <;> rfl
@[simp] theorem takeSample_sk (s : State) : (takeSample s).sk = s.sk := by
  cases s with | mk k di c d sk l r do_ ph rn kv bv dn er ho dr fo => cases ho <;> rfl
@[simp] theorem takeSample_l (s : State) : (takeSample s).l = s.l := by
  cases s with | mk k di c d sk l r do_ ph rn kv bv dn er ho dr fo => cases ho <;> rfl
@[simp] theorem takeSample_r (s : State) : (takeSample s).r = s.r := by
  cases s with | mk k di c d sk l r do_ ph rn kv bv dn er ho dr fo => cases ho <;> rfl
@[simp] theorem takeSample_dout (s : State) : (takeSample s).dout = s.dout := by
  cases s with | mk k di c d sk l r do_ ph rn kv bv dn er ho dr fo => cases ho <;> rfl
@[simp] theorem takeSample_phase (s : State) : (takeSample s).phase = s.phase := by
  cases s with | mk k di c d sk l r do_ ph rn kv bv dn er ho dr fo => cases ho <;> rfl
@[simp] theorem takeSample_rnd (s : State) : (takeSample s).rnd = s.rnd := by
  cases s with | mk k di c d sk l r do_ ph rn kv bv dn er ho dr fo => cases ho <;> rfl
@[simp] theorem takeSample_kv (s : State) : (takeSample s).kv = s.kv := by
  cases s with | mk k di c d sk l r do_ ph rn kv bv dn er ho dr fo => cases ho <;> rfl
@[simp] theorem takeSample_bv (s : State) : (takeSample s).bv = s.bv := by
  cases s with | mk k di c d sk l r do_ ph rn kv bv dn er ho dr fo => cases ho <;> rfl
@[simp] theorem takeSample_done (s : State) : (takeSample s).done = s.done := by
  cases s with | mk k di c d sk l r do_ ph rn kv bv dn er ho dr fo => cases ho <;> rfl
@[simp] theorem takeSample_err (s : State) : (takeSample s).err = s.err := by
  cases s with | mk k di c d sk l r do_ ph rn kv bv dn er ho dr fo => cases ho <;> rfl
@[simp] theorem takeSample_host (s : State) : (takeSample s).host = s.host.tail := by
  cases s with | mk k di c d sk l r do_ ph rn kv bv dn er ho dr fo => cases ho <;> rfl
@[simp] theorem takeSample_draws (s : State) : (takeSample s).draws = if s.host = [] then s.draws + 1 else s.draws := by
  cases s with | mk k di c d sk l r do_ ph rn kv bv dn er ho dr fo => cases ho <;> rfl
@[simp] theorem takeSample_fnOut (s : State) : (takeSample s).fnOut = s.fnOut := by
  cases s with | mk k di c d sk l r do_ ph rn kv bv dn er ho dr fo => cases ho <;> rfl

/-! ### dataRegisters -/

@[simp] theorem dataRegisters_key (s : State) : (dataRegisters s).key = s.key := rfl
@[simp] theorem dataRegisters_din (s : State) : (dataRegisters s).din = s.din := rfl
@[simp] theorem dataRegisters_c (s : State) : (dataRegisters s).c = s.c := rfl
@[simp] theorem dataRegisters_d (s : State) : (dataRegisters s).d = s.d := rfl
@[simp] theorem dataRegisters_sk (s : State) : (dataRegisters s).sk = s.sk := rfl
@[simp] theorem dataRegisters_l (s : State) : (dataRegisters s).l = s.l := rfl
@[simp] theorem dataRegisters_r (s : State) : (dataRegisters s).r = s.r := rfl
@[simp] theorem dataRegisters_dout (s : State) : (dataRegisters s).dout = s.dout := rfl

/-! ### setDataRegisters -/

@[simp] theorem setDataRegisters_key (v : DataRegisters) (s : State) : (setDataRegisters v s).key = v.key := rfl
@[simp] theorem setDataRegisters_din (v : DataRegisters) (s : State) : (setDataRegisters v s).din = v.din := rfl
@[simp] theorem setDataRegisters_c (v : DataRegisters) (s : State) : (setDataRegisters v s).c = v.c := rfl
@[simp] theorem setDataRegisters_d (v : DataRegisters) (s : State) : (setDataRegisters v s).d = v.d := rfl
@[simp] theorem setDataRegisters_sk (v : DataRegisters) (s : State) : (setDataRegisters v s).sk = v.sk := rfl
@[simp] theorem setDataRegisters_l (v : DataRegisters) (s : State) : (setDataRegisters v s).l = v.l := rfl
@[simp] theorem setDataRegisters_r (v : DataRegisters) (s : State) : (setDataRegisters v s).r = v.r := rfl
@[simp] theorem setDataRegisters_dout (v : DataRegisters) (s : State) : (setDataRegisters v s).dout = v.dout := rfl
@[simp] theorem setDataRegisters_phase (v : DataRegisters) (s : State) : (setDataRegisters v s).phase = s.phase := rfl
@[simp] theorem setDataRegisters_rnd (v : DataRegisters) (s : State) : (setDataRegisters v s).rnd = s.rnd := rfl
@[simp] theorem setDataRegisters_kv (v : DataRegisters) (s : State) : (setDataRegisters v s).kv = s.kv := rfl
@[simp] theorem setDataRegisters_bv (v : DataRegisters) (s : State) : (setDataRegisters v s).bv = s.bv := rfl
@[simp] theorem setDataRegisters_done (v : DataRegisters) (s : State) : (setDataRegisters v s).done = s.done := rfl
@[simp] theorem setDataRegisters_err (v : DataRegisters) (s : State) : (setDataRegisters v s).err = s.err := rfl
@[simp] theorem setDataRegisters_host (v : DataRegisters) (s : State) : (setDataRegisters v s).host = s.host := rfl
@[simp] theorem setDataRegisters_draws (v : DataRegisters) (s : State) : (setDataRegisters v s).draws = s.draws := rfl
@[simp] theorem setDataRegisters_fnOut (v : DataRegisters) (s : State) : (setDataRegisters v s).fnOut = s.fnOut := rfl

/-! ### clearControl -/

@[simp] theorem clearControl_key (s : State) : (clearControl s).key = s.key := rfl
@[simp] theorem clearControl_din (s : State) : (clearControl s).din = s.din := rfl
@[simp] theorem clearControl_c (s : State) : (clearControl s).c = s.c := rfl
@[simp] theorem clearControl_d (s : State) : (clearControl s).d = s.d := rfl
@[simp] theorem clearControl_sk (s : State) : (clearControl s).sk = s.sk := rfl
@[simp] theorem clearControl_l (s : State) : (clearControl s).l = s.l := rfl
@[simp] theorem clearControl_r (s : State) : (clearControl s).r = s.r := rfl
@[simp] theorem clearControl_dout (s : State) : (clearControl s).dout = s.dout := rfl
@[simp] theorem clearControl_host (s : State) : (clearControl s).host = s.host := rfl
@[simp] theorem clearControl_draws (s : State) : (clearControl s).draws = s.draws := rfl
@[simp] theorem clearControl_fnOut (s : State) : (clearControl s).fnOut = s.fnOut := rfl
@[simp] theorem clearControl_phase (s : State) : (clearControl s).phase = .idle := rfl
@[simp] theorem clearControl_rnd (s : State) : (clearControl s).rnd = 0 := rfl
@[simp] theorem clearControl_kv (s : State) : (clearControl s).kv = false := rfl
@[simp] theorem clearControl_bv (s : State) : (clearControl s).bv = false := rfl
@[simp] theorem clearControl_done (s : State) : (clearControl s).done = false := rfl
@[simp] theorem clearControl_err (s : State) : (clearControl s).err = 0b000#3 := rfl

/-! ### resetEdge -/

@[simp] theorem resetEdge_key (s : State) : (resetEdge s).key = (Config.unspecData s.draws (dataRegisters s)).key := rfl
@[simp] theorem resetEdge_din (s : State) : (resetEdge s).din = (Config.unspecData s.draws (dataRegisters s)).din := rfl
@[simp] theorem resetEdge_c (s : State) : (resetEdge s).c = (Config.unspecData s.draws (dataRegisters s)).c := rfl
@[simp] theorem resetEdge_d (s : State) : (resetEdge s).d = (Config.unspecData s.draws (dataRegisters s)).d := rfl
@[simp] theorem resetEdge_sk (s : State) : (resetEdge s).sk = (Config.unspecData s.draws (dataRegisters s)).sk := rfl
@[simp] theorem resetEdge_l (s : State) : (resetEdge s).l = (Config.unspecData s.draws (dataRegisters s)).l := rfl
@[simp] theorem resetEdge_r (s : State) : (resetEdge s).r = (Config.unspecData s.draws (dataRegisters s)).r := rfl
@[simp] theorem resetEdge_dout (s : State) : (resetEdge s).dout = (Config.unspecData s.draws (dataRegisters s)).dout := rfl
@[simp] theorem resetEdge_phase (s : State) : (resetEdge s).phase = .idle := rfl
@[simp] theorem resetEdge_rnd (s : State) : (resetEdge s).rnd = 0 := rfl
@[simp] theorem resetEdge_kv (s : State) : (resetEdge s).kv = false := rfl
@[simp] theorem resetEdge_bv (s : State) : (resetEdge s).bv = false := rfl
@[simp] theorem resetEdge_done (s : State) : (resetEdge s).done = false := rfl
@[simp] theorem resetEdge_err (s : State) : (resetEdge s).err = 0b000#3 := rfl
@[simp] theorem resetEdge_host (s : State) : (resetEdge s).host = s.host := rfl
@[simp] theorem resetEdge_draws (s : State) : (resetEdge s).draws = s.draws + 1 := rfl
@[simp] theorem resetEdge_fnOut (s : State) : (resetEdge s).fnOut = s.fnOut := rfl

end Sys2Proof.Machine
end

