-- ==== Sys2Proof/Laws/Ops.lean ====
section
/-! SUPPORT. What each shared operation on the state does, said once. -/

namespace Sys2Proof.Machine

theorem whenIdle_idle (f : State → State) {s : State} (h : s.phase = .idle) : whenIdle f s = f s := by
  simp [whenIdle, h]

theorem whenIdle_busy (f : State → State) {s : State} (h : s.phase ≠ .idle) :
    whenIdle f s = raiseFault busycmdBit s := by
  unfold whenIdle
  cases hp : s.phase <;> simp_all

theorem beginOperation_loaded {s : State} (hk : s.kv = true) (hb : s.bv = true) :
    beginOperation s = { s with phase := .kspc1, done := false } := by
  simp [beginOperation, hk, hb]

theorem beginOperation_unloaded {s : State} (h : s.kv = false ∨ s.bv = false) :
    beginOperation s = raiseFault unloadedBit s := by
  rcases h with h | h <;> simp [beginOperation, h]

/-- RND = i + 1 names the entry SK[i+1] (R14). -/
theorem roundIndex_of_val {rnd : RoundNumber} {i : Fin 16} (h : rnd.val = i.val + 1) : roundIndex rnd = some i := by
  unfold roundIndex
  rw [dif_pos (by omega)]
  simp [h]

/-- Every value of RND names a round or is 0. -/
theorem roundIndex_cases (rnd : RoundNumber) :
    (∃ i : Fin 16, rnd.val = i.val + 1 ∧ roundIndex rnd = some i) ∨ (rnd = 0 ∧ roundIndex rnd = none) := by
  revert rnd; decide

theorem inRound_of_val (body : Fin 16 → State → State) {s : State} {i : Fin 16} (h : s.rnd.val = i.val + 1) :
    inRound body s = .next (body i s) := by
  simp [inRound, roundIndex_of_val h]

/-- The two things a round micro-operation can do. -/
theorem inRound_cases (body : Fin 16 → State → State) (s : State) :
    (∃ i : Fin 16, s.rnd.val = i.val + 1 ∧ inRound body s = .next (body i s)) ∨
    (s.rnd = 0 ∧ inRound body s = .fault .rndOutOfRange) := by
  rcases roundIndex_cases s.rnd with ⟨i, hi, h⟩ | ⟨hn, h⟩
  · exact .inl ⟨i, hi, by simp [inRound, h]⟩
  · exact .inr ⟨hn, by simp [inRound, h]⟩

/-- `advanceRound` before round 16: RND counts up, PHASE stays (R187, R189). -/
theorem advanceRound_of_lt (after : Phase) {s : State} (h : s.rnd.val < 16) :
    advanceRound after s = { s with rnd := Fin.ofNat 17 (s.rnd.val + 1) } := by
  have hlt : s.rnd < 16 := h
  have he : s.rnd + 1 = Fin.ofNat 17 (s.rnd.val + 1) := by apply Fin.ext; simp [Fin.val_add]
  simp [advanceRound, hlt, he]

/-- `advanceRound` at round 16: RND is 0 and the next phase begins (R187, R189). -/
theorem advanceRound_of_ge (after : Phase) {s : State} (h : 16 ≤ s.rnd.val) :
    advanceRound after s = { s with rnd := 0, phase := after } := by
  have hlt : ¬ s.rnd < 16 := Nat.not_lt.mpr h
  simp [advanceRound, hlt]

theorem samplePorts_cons {s : State} {p : PortIn} {rest : List PortIn} (h : s.host = p :: rest) :
    samplePorts s = p := by simp [samplePorts, h]

theorem takeSample_cons {s : State} {p : PortIn} {rest : List PortIn} (h : s.host = p :: rest) :
    takeSample s = { s with host := rest } := by simp [takeSample, h]

theorem samplePorts_nil {s : State} (h : s.host = []) : samplePorts s = Config.hostInput s.draws := by
  simp [samplePorts, h]

theorem takeSample_nil {s : State} (h : s.host = []) : takeSample s = { s with draws := s.draws + 1 } := by
  simp [takeSample, h]

@[simp] theorem andThen_next (s : State) (f : State → Host.Outcome State Fault Refusal) :
    andThen (.next s) f = f s := rfl

end Sys2Proof.Machine
end

