-- ==== Sys2Proof/Laws/Edge.lean ====
section
/-! SUPPORT. What one edge can do, said once: the command part by its code, the micro-operation part by the phase. -/

namespace Sys2Proof.Machine

/-- The command part of an edge is always a next state: NOP, an accepted or dropped command, or a reserved code. -/
theorem commandPart_eq (p : PortIn) (s : State) :
    commandPart p s = .next
      (if p.cmd = 0b000#3 then s else if p.cmd = 0b001#3 then whenIdle (loadKey p.din) s
        else if p.cmd = 0b010#3 then whenIdle (loadBlock p.din) s
        else if p.cmd = 0b011#3 then whenIdle beginOperation s else raiseFault illcmdBit s) := by
  unfold commandPart PortIn.word
  rw [decodeCommand_word]
  split_ifs <;> rfl

/-- The micro-operation part of an edge, by the phase before it. -/
theorem microPart_eq (ph : Phase) (s : State) :
    microPart ph s =
      match ph with
      | .idle => .next s
      | .kspc1 => execKspc1 s
      | .ksrot => execKsrot s
      | .iperm => execIperm s
      | .round => execRound s
      | .fperm => execFperm s := by
  cases ph <;> rfl

theorem edge_reset {p : PortIn} (s : State) (h : p.rst = true) : edge p s = .next (resetEdge s) := by
  simp [edge, h]

/-- An edge in IDLE is its command part. -/
theorem edge_idle {p : PortIn} {s : State} (hr : p.rst = false) (h : s.phase = .idle) :
    edge p s = .next
      (if p.cmd = 0b000#3 then s else if p.cmd = 0b001#3 then loadKey p.din s
        else if p.cmd = 0b010#3 then loadBlock p.din s
        else if p.cmd = 0b011#3 then beginOperation s else raiseFault illcmdBit s) := by
  simp [edge, hr, h, commandPart_eq, microPart_eq, whenIdle_idle _ h]

/-- The ERR bit a command presented while busy sets (R181, R185). -/
def busyFaultBit (p : PortIn) : BitVec 3 :=
  if p.cmd.getLsbD 2 then 0b001#3 else if p.cmd = 0b000#3 then 0b000#3 else 0b010#3

/-- An edge while busy is its micro-operation, in the state with the command's ERR bit set. -/
theorem edge_busy {p : PortIn} {s : State} (hr : p.rst = false) (h : s.phase ≠ .idle) :
    edge p s = microPart s.phase (raiseFault (busyFaultBit p) s) := by
  have h0 : raiseFault 0#3 s = s := by simp [raiseFault]
  simp only [edge, hr, commandPart_eq, whenIdle_busy _ h, andThen_next, Bool.false_eq_true, if_false, busyFaultBit]
  rcases cmd_cases p.cmd with hc | hc | hc | hc | hc
  · simp [hc, h0]
  · simp [hc, busycmdBit]
  · simp [hc, busycmdBit]
  · simp [hc, busycmdBit]
  · have : p.cmd ≠ 0#3 ∧ p.cmd ≠ 1#3 ∧ p.cmd ≠ 2#3 ∧ p.cmd ≠ 3#3 := by
      refine ⟨?_, ?_, ?_, ?_⟩ <;> (intro he; rw [he] at hc; revert hc; decide)
    simp [this, hc, illcmdBit]

/-- Everything the micro-operation of an edge can do, by the phase before it: the round micro-operations need RND to name a
round. -/
theorem microPart_cases {ph : Phase} {s t : State} (h : microPart ph s = .next t) :
    (ph = .idle ∧ t = s) ∨
    (ph = .kspc1 ∧ t = enterRounds .ksrot (setKeyHalves (initialKeyHalves s.key) s)) ∨
    (ph = .ksrot ∧ ∃ i : Fin 16, s.rnd.val = i.val + 1 ∧ t = keyRound i s) ∨
    (ph = .iperm ∧ t = enterRounds .round (setDataHalves (initialDataHalves s.din) s)) ∨
    (ph = .round ∧ ∃ i : Fin 16, s.rnd.val = i.val + 1 ∧ t = dataRound i s) ∨
    (ph = .fperm ∧ t = { s with dout := finalBlock (s.l, s.r), done := true, phase := .idle }) := by
  rw [microPart_eq] at h
  cases ph with
  | idle => cases h; exact .inl ⟨rfl, rfl⟩
  | kspc1 => cases h; exact .inr (.inl ⟨rfl, rfl⟩)
  | ksrot =>
    rcases inRound_cases keyRound s with ⟨i, hi, e⟩ | ⟨_, e⟩ <;> simp only [execKsrot, e] at h <;> cases h
    exact .inr (.inr (.inl ⟨rfl, i, hi, rfl⟩))
  | iperm => cases h; exact .inr (.inr (.inr (.inl ⟨rfl, rfl⟩)))
  | round =>
    rcases inRound_cases dataRound s with ⟨i, hi, e⟩ | ⟨_, e⟩ <;> simp only [execRound, e] at h <;> cases h
    exact .inr (.inr (.inr (.inr (.inl ⟨rfl, i, hi, rfl⟩))))
  | fperm => cases h; exact .inr (.inr (.inr (.inr (.inr ⟨rfl, rfl⟩))))

/-- Everything one edge can do: the reset rule; in IDLE the command rule; while busy the micro-operation, in the state with
the ERR bit of the command presented. -/
theorem edge_cases {p : PortIn} {s t : State} (h : edge p s = .next t) :
    (p.rst = true ∧ t = resetEdge s) ∨
    (p.rst = false ∧ s.phase = .idle ∧
      t = if p.cmd = 0b000#3 then s else if p.cmd = 0b001#3 then loadKey p.din s
        else if p.cmd = 0b010#3 then loadBlock p.din s
        else if p.cmd = 0b011#3 then beginOperation s else raiseFault illcmdBit s) ∨
    (p.rst = false ∧ s.phase ≠ .idle ∧ microPart s.phase (raiseFault (busyFaultBit p) s) = .next t) := by
  cases hr : p.rst with
  | true => rw [edge_reset s hr] at h; cases h; exact .inl ⟨rfl, rfl⟩
  | false =>
    by_cases hi : s.phase = .idle
    · rw [edge_idle hr hi] at h; cases h; exact .inr (.inl ⟨rfl, hi, rfl⟩)
    · rw [edge_busy hr hi] at h; exact .inr (.inr ⟨rfl, hi, h⟩)

/-- A reserved code is none of the four defined ones (R67). -/
theorem reserved_ne {cmd : BitVec 3} (h : cmd.getLsbD 2 = true) :
    cmd ≠ 0b000#3 ∧ cmd ≠ 0b001#3 ∧ cmd ≠ 0b010#3 ∧ cmd ≠ 0b011#3 := by
  revert cmd; decide

/-- Outside KSROT and ROUND no rule reads RND: with another RND the edge differs in RND only. So it does not show which value
RND has there (log 21). -/
theorem edge_of_other_rnd {p : PortIn} {s t : State} (hk : s.phase ≠ .ksrot) (hr : s.phase ≠ .round)
    (h : edge p s = .next t) (n : RoundNumber) :
    ∃ m : RoundNumber, edge p { s with rnd := n } = .next { t with rnd := m } := by
  rcases edge_cases h with ⟨hrst, rfl⟩ | ⟨hrst, hi, rfl⟩ | ⟨hrst, hi, hm⟩
  · exact ⟨0, edge_reset _ hrst⟩
  · refine ⟨n, ?_⟩
    rw [edge_idle (s := { s with rnd := n }) hrst hi]
    split_ifs
    · rfl
    · rfl
    · rfl
    · simp only [beginOperation]; split_ifs <;> rfl
    · rfl
  · rw [edge_busy (s := { s with rnd := n }) hrst hi]
    rcases microPart_cases hm with ⟨e, _⟩ | ⟨e, rfl⟩ | ⟨e, _⟩ | ⟨e, rfl⟩ | ⟨e, _⟩ | ⟨e, rfl⟩
    · exact absurd e hi
    · exact ⟨1, by rw [microPart_eq, e]; rfl⟩
    · exact absurd e hk
    · exact ⟨1, by rw [microPart_eq, e]; rfl⟩
    · exact absurd e hr
    · exact ⟨n, by rw [microPart_eq, e]; rfl⟩

theorem step_eq (s : State) : step s = edge (samplePorts s) (takeSample s) := rfl

end Sys2Proof.Machine
end

