-- ==== Sys2Proof/Laws/HostProgram.lean ====
section
/-! SUPPORT. What running lines, WAIT and an expansion do, said once. -/

namespace Sys2Proof.Machine

@[simp] theorem runEdges_nil (s : State) : runEdges [] s = .next s := rfl

@[simp] theorem runEdges_cons (p : PortIn) (ps : List PortIn) (s : State) :
    runEdges (p :: ps) s = andThen (edge p s) (runEdges ps) := rfl

/-- A run of two lists is the run of the second where the first ends. -/
theorem runEdges_append (ps qs : List PortIn) (s : State) :
    runEdges (ps ++ qs) s = andThen (runEdges ps s) (runEdges qs) := by
  induction ps generalizing s with
  | nil => rfl
  | cons p ps ih => simp only [List.cons_append, runEdges_cons]; cases edge p s <;> simp [andThen, ih]

/-- A run that begins with an edge to `t` goes on from `t`. -/
theorem runEdges_of_edge {p : PortIn} {s t : State} (ps : List PortIn) (h : edge p s = .next t) :
    runEdges (p :: ps) s = runEdges ps t := by simp [h]

/-- A run that answers a next state begins with an edge that does. -/
theorem runEdges_cons_next {p : PortIn} {ps : List PortIn} {s u : State} (h : runEdges (p :: ps) s = .next u) :
    ∃ t : State, edge p s = .next t ∧ runEdges ps t = .next u := by
  rw [runEdges_cons] at h
  cases he : edge p s with
  | next t => exact ⟨t, rfl, by simpa [he] using h⟩
  | fault e => simp [he, andThen] at h
  | refused e => simp [he, andThen] at h

/-- A line NOP in IDLE changes nothing (R180). -/
theorem edge_nop_idle (ignored : BitVec 64) {s : State} (h : s.phase = .idle) :
    edge (lineSample ignored .nop) s = .next s := by
  rw [edge_idle rfl h]; rfl

/-- A line NOP while busy is the micro-operation alone (R176, R180). -/
theorem edge_nop_busy (ignored : BitVec 64) {s : State} (h : s.phase ≠ .idle) :
    edge (lineSample ignored .nop) s = microPart s.phase s := by
  rw [edge_busy rfl h]; simp [raiseFault, busyFaultBit, lineSample]

theorem waitCount_of_done (ignored : BitVec 64) (bound : Nat) {s : State} (h : s.done = true) :
    waitCount ignored bound s = some 0 := by
  cases bound <;> simp [waitCount, donePort, h]

theorem waitCount_of_edge (ignored : BitVec 64) (bound : Nat) {s t : State} (h : s.done = false)
    (he : edge (lineSample ignored .nop) s = .next t) :
    waitCount ignored (bound + 1) s = (waitCount ignored bound t).map (· + 1) := by
  simp [waitCount, donePort, h, he]

/-- WAIT is the least number of NOP lines after which `done` is 1 (R76). -/
theorem waitCount_spec (ignored : BitVec 64) {bound n : Nat} {s : State} (h : waitCount ignored bound s = some n) :
    n ≤ bound ∧ (∃ t : State, runLines ignored (nopTimes n) s = .next t ∧ t.done = true) ∧
      ∀ m : Nat, m < n → ∃ u : State, runLines ignored (nopTimes m) s = .next u ∧ u.done = false := by
  induction bound generalizing n s with
  | zero =>
    by_cases hd : s.done = true
    · rw [waitCount_of_done _ _ hd] at h; cases h
      exact ⟨Nat.le_refl _, ⟨s, rfl, hd⟩, fun m hm => absurd hm (Nat.not_lt_zero m)⟩
    · simp [waitCount, donePort, hd] at h
  | succ bound ih =>
    by_cases hd : s.done = true
    · rw [waitCount_of_done _ _ hd] at h; cases h
      exact ⟨Nat.zero_le _, ⟨s, rfl, hd⟩, fun m hm => absurd hm (Nat.not_lt_zero m)⟩
    · have hd : s.done = false := by simpa using hd
      cases he : edge (lineSample ignored .nop) s with
      | fault e => simp [waitCount, donePort, hd, he] at h
      | refused e => simp [waitCount, donePort, hd, he] at h
      | next t =>
        rw [waitCount_of_edge _ _ hd he] at h
        obtain ⟨m, hm, rfl⟩ := Option.map_eq_some_iff.mp h
        obtain ⟨hle, ⟨u, hu, hud⟩, hlt⟩ := ih hm
        have step (j : Nat) : runLines ignored (nopTimes (j + 1)) s = runLines ignored (nopTimes j) t := by
          simp [runLines, nopTimes, List.replicate_succ, he]
        refine ⟨by omega, ⟨u, by rw [step, hu], hud⟩, fun j hj => ?_⟩
        cases j with
        | zero => exact ⟨s, rfl, hd⟩
        | succ j => rw [step]; exact hlt j (by omega)

theorem afterExpansion_of_run {α : Type} {ignored : BitVec 64} {expansion : State → Option (List Line)}
    (k : List Line → State → Option α) {s t : State} {lines : List Line} (he : expansion s = some lines)
    (hr : runLines ignored lines s = .next t) : afterExpansion ignored expansion k s = k lines t := by
  simp [afterExpansion, he, hr]

/-- A request that passes the checks is realised by its lines (R220). -/
theorem encryptOnEngine_of_ok {message key : List Byte} {request : EncryptRequest} (ignored : BitVec 64) (s : State)
    (h : encryptRequest message key = .ok request) :
    encryptLines ignored message key s = requestLines ignored request s ∧
      encryptOnEngine ignored message key s = (requestResult ignored request s).map .ok := by
  simp [encryptLines, encryptOnEngine, h]

/-- A failed check returns its error and issues no command (R213, R220, R235). -/
theorem encryptOnEngine_of_error {message key : List Byte} {e : HostError} (ignored : BitVec 64) (s : State)
    (h : encryptRequest message key = .error e) :
    encryptLines ignored message key s = some [] ∧ encryptOnEngine ignored message key s = some (.error e) := by
  simp [encryptLines, encryptOnEngine, h]

end Sys2Proof.Machine
end

