-- ==== Sys2Proof/Laws/PerInstr.lean ====
section
/-! SUPPORT. Statements made for each instruction: an instruction that has bits is well formed (R72: the rows with an
operand check have none). -/

namespace Sys2Proof.Laws.EncodedIsWellFormed

/-- An instruction with an encoding passes every form check. -/
def Statement (i : Instr) : Prop := (encode i).isSome = true → i.WellFormed = true

theorem nop : Statement (.nop) := fun _ => rfl
theorem ldkey (key : BitVec 64) : Statement (.ldkey key) := fun _ => rfl
theorem ldblk (block : BitVec 64) : Statement (.ldblk block) := fun _ => rfl
theorem start : Statement (.start) := fun _ => rfl
theorem rsvd (n : BitVec 2) : Statement (.rsvd n) := fun _ => rfl
theorem kspc1 : Statement (.kspc1) := fun _ => rfl
theorem ksrot : Statement (.ksrot) := fun _ => rfl
theorem iperm : Statement (.iperm) := fun _ => rfl
theorem round : Statement (.round) := fun _ => rfl
theorem fperm : Statement (.fperm) := fun _ => rfl
theorem s1 (row : BitVec 2) (col : BitVec 4) : Statement (.s1 row col) := fun _ => rfl
theorem s2 (row : BitVec 2) (col : BitVec 4) : Statement (.s2 row col) := fun _ => rfl
theorem s3 (row : BitVec 2) (col : BitVec 4) : Statement (.s3 row col) := fun _ => rfl
theorem s4 (row : BitVec 2) (col : BitVec 4) : Statement (.s4 row col) := fun _ => rfl
theorem s5 (row : BitVec 2) (col : BitVec 4) : Statement (.s5 row col) := fun _ => rfl
theorem s6 (row : BitVec 2) (col : BitVec 4) : Statement (.s6 row col) := fun _ => rfl
theorem s7 (row : BitVec 2) (col : BitVec 4) : Statement (.s7 row col) := fun _ => rfl
theorem s8 (row : BitVec 2) (col : BitVec 4) : Statement (.s8 row col) := fun _ => rfl
theorem permute (w : Nat) (t : List Nat) (v : BitVec w) : Statement (.permute w t v) := fun h => absurd h (by simp [encode])
theorem rotl28 (v : BitVec 28) (n : RotAmount) : Statement (.rotl28 v n) := fun _ => rfl
theorem deriveSubkeys (key : BitVec 64) : Statement (.deriveSubkeys key) := fun _ => rfl
theorem substitute (box : Fin 8) (x : BitVec 6) : Statement (.substitute box x) := fun _ => rfl
theorem roundFunction (rightHalf : BitVec 32) (subkey : BitVec 48) : Statement (.roundFunction rightHalf subkey) := fun _ => rfl
theorem encryptBlock (plaintext key : BitVec 64) : Statement (.encryptBlock plaintext key) := fun _ => rfl
theorem bytesToWord (b : Bytes8) : Statement (.bytesToWord b) := fun _ => rfl
theorem encrypt8 (message key : List Byte) : Statement (.encrypt8 message key) := fun h => absurd h (by simp [encode])
theorem encrypt16 (message key : List Byte) : Statement (.encrypt16 message key) := fun h => absurd h (by simp [encode])
theorem encryptBadlength (message key : List Byte) : Statement (.encryptBadlength message key) := fun h => absurd h (by simp [encode])
theorem mirror8 (b : Byte) : Statement (.mirror8 b) := fun _ => rfl
theorem deriveKeyFromPassword (password : Text) : Statement (.deriveKeyFromPassword password) := fun _ => rfl
theorem encryptWithPassword (message : List Byte) (password : Text) : Statement (.encryptWithPassword message password) := fun _ => rfl

end Sys2Proof.Laws.EncodedIsWellFormed
end

