-- ==== Sys2Proof/Tests/Slice0.lean ====
section
/-! SUPPORT. The model's own tests: ill-formed terms refused, words written out from the spec's encodings, single steps
with the vectors of `95_test_vectors.md`, and a witness for the hypotheses of each statement. Every expected value is
the spec's. -/

namespace Sys2Proof.Tests

open Sys2Proof.Machine Sys2Proof.Safety

/-! ## WellFormed: one ill-formed term for each check -/

theorem test_wf_permute_entry_above_width : (Instr.permute 32 [1, 33] 0#32).WellFormed = false := by decide
theorem test_wf_permute_entry_zero : (Instr.permute 32 [0, 32] 0#32).WellFormed = false := by decide
theorem test_wf_permute_empty_table : (Instr.permute 32 [] 0#32).WellFormed = false := by decide
theorem test_wf_permute_width_zero : (Instr.permute 0 [1] 0#0).WellFormed = false := by decide
theorem test_wf_permute_good : (Instr.permute 32 [32, 1, 1] 0#32).WellFormed = true := by decide
theorem test_wf_encrypt8_wrong_length : (Instr.encrypt8 (List.replicate 9 0#8) []).WellFormed = false := by decide
theorem test_wf_encrypt16_wrong_length : (Instr.encrypt16 (List.replicate 15 0#8) []).WellFormed = false := by decide
theorem test_wf_badlength_8 : (Instr.encryptBadlength (List.replicate 8 0#8) []).WellFormed = false := by decide
theorem test_wf_badlength_16 : (Instr.encryptBadlength (List.replicate 16 0#8) []).WellFormed = false := by decide
theorem test_wf_badlength_0 : (Instr.encryptBadlength [] []).WellFormed = true := by decide

/-! ## Decode: words written out bit by bit (R62, R66, R70, R42, V13) -/

theorem test_decode_nop :
    decode (.command 0b1111111111111111111111111111111111111111111111111111111111111111_000#67) = .ok .nop := by rfl
theorem test_decode_ldkey :
    decode (.command 0b0001001100110100010101110111100110011011101111001101111111110001_001#67) =
      .ok (.ldkey 0x133457799BBCDFF1#64) := by rfl
theorem test_decode_ldblk :
    decode (.command 0b0000000100100011010001010110011110001001101010111100110111101111_010#67) =
      .ok (.ldblk 0x0123456789ABCDEF#64) := by rfl
theorem test_decode_start :
    decode (.command 0b0000000000000000000000000000000000000000000000000000000000000000_011#67) = .ok .start := by rfl
theorem test_decode_rsvd_110 :
    decode (.command 0b0000000000000000000000000000000000000000000000000000000000000001_110#67) =
      .ok (.rsvd 0b10#2) := by rfl
theorem test_decode_kspc1 : decode (.phase 0b001#3) = .ok .kspc1 := by rfl
theorem test_decode_ksrot : decode (.phase 0b010#3) = .ok .ksrot := by rfl
theorem test_decode_iperm : decode (.phase 0b011#3) = .ok .iperm := by rfl
theorem test_decode_round : decode (.phase 0b100#3) = .ok .round := by rfl
theorem test_decode_fperm : decode (.phase 0b101#3) = .ok .fperm := by rfl
theorem test_decode_idle_refused : decode (.phase 0b000#3) = .error .idlePhase := by rfl
theorem test_decode_phase_6_refused : decode (.phase 0b110#3) = .error (.unreachablePhase 0b110#3) := by rfl
theorem test_decode_phase_7_refused : decode (.phase 0b111#3) = .error (.unreachablePhase 0b111#3) := by rfl
theorem test_decode_s1 : decode (.lut 0b000_00_1100#9) = .ok (.s1 0b00#2 0b1100#4) := by rfl
theorem test_decode_s2 : decode (.lut 0b001_01_0001#9) = .ok (.s2 0b01#2 0b0001#4) := by rfl
theorem test_decode_s3 : decode (.lut 0b010_10_0010#9) = .ok (.s3 0b10#2 0b0010#4) := by rfl
theorem test_decode_s4 : decode (.lut 0b011_11_0100#9) = .ok (.s4 0b11#2 0b0100#4) := by rfl
theorem test_decode_s5 : decode (.lut 0b100_11_0000#9) = .ok (.s5 0b11#2 0b0000#4) := by rfl
theorem test_decode_s6 : decode (.lut 0b101_01_1000#9) = .ok (.s6 0b01#2 0b1000#4) := by rfl
theorem test_decode_s7 : decode (.lut 0b110_10_0111#9) = .ok (.s7 0b10#2 0b0111#4) := by rfl
theorem test_decode_s8 : decode (.lut 0b111_11_0011#9) = .ok (.s8 0b11#2 0b0011#4) := by rfl
theorem test_table_word_ldkey : decodeTableWord 3 0b001 = some (.ldkey 0#64) := by rfl
theorem test_table_word_rsvd : decodeTableWord 8 0b111 = some (.rsvd 0b11#2) := by rfl
theorem test_table_word_sample : decodeTableWord 67 0b1_001 = some (.ldkey 1#64) := by rfl
theorem test_table_word_lut : decodeTableWord 16 0x130 = some (.s5 0b11#2 0b0000#4) := by rfl
theorem test_table_word_too_wide : decodeTableWord 16 0x200 = none := by rfl
theorem test_function_rows_have_no_bits : encode (.mirror8 0x41#8) = none := by rfl

/-! ## States for the single steps -/

/-- IDLE, both operands of V1 loaded, DONE = 1, an old DOUT. -/
def idleState : State :=
  { State.reset with
    key := 0x133457799BBCDFF1#64, din := 0x0123456789ABCDEF#64, kv := true, bv := true, done := true,
    dout := 0x85E813540F0AB405#64 }

/-- In the middle of the V1 operation, at `phase` and round `rnd`. -/
def busyState (phase : Phase) (rnd : RoundNumber) : State :=
  { State.reset with
    key := 0x133457799BBCDFF1#64, din := 0x0123456789ABCDEF#64, kv := true, bv := true, phase := phase, rnd := rnd }

/-- Before KSROT: halves `c`, `d` (V12). -/
def keyState (rnd : RoundNumber) (c d : BitVec 28) : State := { busyState .ksrot rnd with c := c, d := d }

/-- Before ROUND or FPERM: halves `l`, `r`, and SK[1] and SK[16] of V1 (V12). -/
def dataState (phase : Phase) (rnd : RoundNumber) (l r : BitVec 32) : State :=
  { busyState phase rnd with
    l := l, r := r, sk := ((Vector.replicate 16 0#48).set 0 0x1B02EFFC7072#48).set 15 0xCB3D8B0E17F5#48 }

/-- What `view` shows of a next state; `none` for a stop. -/
def seen {α : Type} (o : Host.Outcome State Fault Refusal) (view : State → α) : Option α :=
  match o with
  | .next s => some (view s)
  | .fault _ => none
  | .refused _ => none

/-- (PHASE, RND, KV, BV, DONE, ERR), as V11 writes a state. -/
def control (s : State) : Phase × RoundNumber × Bool × Bool × Bool × BitVec 3 :=
  (s.phase, s.rnd, s.kv, s.bv, s.done, s.err)

/-- An edge with `rst` = 0. -/
def sample (cmd : BitVec 3) (din : BitVec 64) : PortIn := { rst := false, cmd := cmd, din := din }

/-! ## Host commands (V11) -/

theorem test_nop : edge (sample 0b000#3 5#64) idleState = .next idleState := by rfl
theorem test_ldkey_clears_done :
    seen (edge (sample 0b001#3 7#64) idleState) (fun s => (s.key, s.dout, control s)) =
      some (7#64, 0x85E813540F0AB405#64, .idle, 0, true, true, false, 0b000#3) := by rfl
theorem test_ldkey_while_busy :
    seen (edge (sample 0b001#3 7#64) (keyState 4 0x0CCAAFF#28 0x56678F5#28))
        (fun s => (s.key, s.c, s.d, s.phase, s.rnd, s.err)) =
      some (0x133457799BBCDFF1#64, 0x332ABFC#28, 0x599E3D5#28, .ksrot, 5, 0b010#3) := by decide +kernel
theorem test_ldblk_first :
    seen (edge (sample 0b010#3 9#64) { State.reset with kv := true }) (fun s => (s.din, control s)) =
      some (9#64, .idle, 0, true, true, false, 0b000#3) := by rfl
theorem test_ldblk_at_fperm_is_still_busy :
    seen (edge (sample 0b010#3 9#64) (dataState .fperm 0 0x43423234#32 0x0A4CD995#32))
        (fun s => (s.din, s.dout, s.phase, s.done, s.err)) =
      some (0x0123456789ABCDEF#64, 0x85E813540F0AB405#64, .idle, true, 0b010#3) := by decide +kernel
theorem test_start_accepted :
    seen (edge (sample 0b011#3 0#64) idleState) (fun s => (s.dout, control s)) =
      some (0x85E813540F0AB405#64, .kspc1, 0, true, true, false, 0b000#3) := by rfl
theorem test_start_refused_without_key :
    seen (edge (sample 0b011#3 0#64) { State.reset with bv := true }) control =
      some (.idle, 0, false, true, false, 0b100#3) := by rfl
theorem test_rsvd_keeps_done :
    seen (edge (sample 0b100#3 0#64) idleState) control = some (.idle, 0, true, true, true, 0b001#3) := by rfl
theorem test_rsvd_while_busy :
    seen (edge (sample 0b110#3 0#64) (busyState .round 3)) control =
      some (.round, 4, true, true, false, 0b001#3) := by decide +kernel
theorem test_reset_wins_over_start :
    seen (edge { rst := true, cmd := 0b011#3, din := 0#64 } { idleState with err := 0b111#3 }) control =
      some (.idle, 0, false, false, false, 0b000#3) := by rfl

/-! ## Micro-operations (V12) -/

theorem test_kspc1 :
    seen (exec .kspc1 (busyState .kspc1 0)) (fun s => (s.c, s.d, s.rnd, s.phase)) =
      some (0xF0CCAAF#28, 0x556678F#28, 1, .ksrot) := by decide +kernel
theorem test_ksrot_3 :
    seen (exec .ksrot (keyState 3 0xC332ABF#28 0x5599E3D#28)) (fun s => (s.c, s.d, s.sk[2], s.rnd, s.phase)) =
      some (0x0CCAAFF#28, 0x56678F5#28, 0x55FC8A42CF99#48, 4, .ksrot) := by decide +kernel
theorem test_ksrot_16 :
    seen (exec .ksrot (keyState 16 0xF866557#28 0xAAB33C7#28)) (fun s => (s.c, s.d, s.sk[15], s.rnd, s.phase)) =
      some (0xF0CCAAF#28, 0x556678F#28, 0xCB3D8B0E17F5#48, 0, .iperm) := by decide +kernel
theorem test_iperm :
    seen (exec .iperm (busyState .iperm 0)) (fun s => (s.l, s.r, s.rnd, s.phase)) =
      some (0xCC00CCFF#32, 0xF0AAF0AA#32, 1, .round) := by decide +kernel
theorem test_round_1 :
    seen (exec .round (dataState .round 1 0xCC00CCFF#32 0xF0AAF0AA#32)) (fun s => (s.l, s.r, s.rnd, s.phase)) =
      some (0xF0AAF0AA#32, 0xEF4A6544#32, 2, .round) := by decide +kernel
theorem test_round_16 :
    seen (exec .round (dataState .round 16 0xC28C960D#32 0x43423234#32)) (fun s => (s.l, s.r, s.rnd, s.phase)) =
      some (0x43423234#32, 0x0A4CD995#32, 0, .fperm) := by decide +kernel
theorem test_fperm :
    seen (exec .fperm (dataState .fperm 0 0x43423234#32 0x0A4CD995#32)) (fun s => (s.dout, s.done, s.phase, s.l)) =
      some (0x85E813540F0AB405#64, true, .idle, 0x43423234#32) := by decide +kernel

/-! ## S-boxes: the outputs of V8 for x = 2A (row 2, column 5) and x = 15 (row 1, column 10) -/

/-- The answer of a LUT row. -/
def lut (i : Instr) : Option FnResult := seen (exec i State.reset) State.fnOut

theorem test_s1 : (lut (.s1 2#2 5#4), lut (.s1 1#2 10#4)) = (some (.nibble 6#4), some (.nibble 12#4)) := by rfl
theorem test_s2 : (lut (.s2 2#2 5#4), lut (.s2 1#2 10#4)) = (some (.nibble 4#4), some (.nibble 1#4)) := by rfl
theorem test_s3 : (lut (.s3 2#2 5#4), lut (.s3 1#2 10#4)) = (some (.nibble 15#4), some (.nibble 5#4)) := by rfl
theorem test_s4 : (lut (.s4 2#2 5#4), lut (.s4 1#2 10#4)) = (some (.nibble 11#4), some (.nibble 2#4)) := by rfl
theorem test_s5 : (lut (.s5 2#2 5#4), lut (.s5 1#2 10#4)) = (some (.nibble 13#4), some (.nibble 15#4)) := by rfl
theorem test_s6 : (lut (.s6 2#2 5#4), lut (.s6 1#2 10#4)) = (some (.nibble 8#4), some (.nibble 13#4)) := by rfl
theorem test_s7 : (lut (.s7 2#2 5#4), lut (.s7 1#2 10#4)) = (some (.nibble 3#4), some (.nibble 5#4)) := by rfl
theorem test_s8 : (lut (.s8 2#2 5#4), lut (.s8 1#2 10#4)) = (some (.nibble 12#4), some (.nibble 6#4)) := by rfl

/-- The row of V8 for the input `x`, boxes 1 to 8. -/
def substituteAll (x : BitVec 6) : List (BitVec 4) := (List.finRange 8).map fun box => substitute box x

theorem test_substitute_first : substituteAll 0x01#6 = [0, 3, 13, 13, 14, 10, 13, 1] := by decide
theorem test_substitute_last : substituteAll 0x3F#6 = [13, 9, 12, 14, 3, 13, 12, 11] := by decide

/-! ## Datapath functions (V6, V4, V9, V5) -/

theorem test_permute_ip : permute tableIP 0x0123456789ABCDEF#64 = 0xCC00CCFFF0AAF0AA#64 := by decide +kernel
theorem test_permute_ip_msb : permute tableIP 0x8000000000000000#64 = 0x0000000001000000#64 := by decide +kernel
theorem test_permute_fp : permute tableFP 0x0123456789ABCDEF#64 = 0xFF330FAA00330FAA#64 := by decide +kernel
theorem test_permute_e : permute tableE 0x80000001#32 = 0xC00000000003#48 := by decide +kernel
theorem test_permute_p : permute tableP 0x5C82B597#32 = 0x234AA9BB#32 := by decide +kernel
theorem test_permute_pc1 : permute tablePC1 0x133457799BBCDFF1#64 = 0xF0CCAAF556678F#56 := by decide +kernel
theorem test_permute_pc2 : permute tablePC2 0xE19955FAACCF1E#56 = 0x1B02EFFC7072#48 := by decide +kernel
theorem test_permute_row : lut (.permute 4 [1, 4, 2] 0b1000#4) = some (.bits 3 0b100#3) := by rfl
theorem test_permute_refused : exec (.permute 32 [33] 0#32) State.reset = .fault .malformedTable := by rfl
theorem test_rotl28_one : lut (.rotl28 0x8000000#28 .one) = some (.half 0x0000001#28) := by rfl
theorem test_rotl28_two : lut (.rotl28 0xC332ABF#28 .two) = some (.half 0x0CCAAFF#28) := by rfl
theorem test_deriveSubkeys :
    ((deriveSubkeys 0x133457799BBCDFF1#64)[2], (deriveSubkeys 0x133457799BBCDFF1#64)[15]) =
      (0x55FC8A42CF99#48, 0xCB3D8B0E17F5#48) := by decide +kernel
theorem test_deriveSubkeys_parity :
    lut (.deriveSubkeys 0x0101010101010101#64) = some (.subkeys (Vector.replicate 16 0#48)) := by decide +kernel
theorem test_roundFunction_zero : lut (.roundFunction 0#32 0#48) = some (.word32 0xD8D8DBBC#32) := by decide +kernel
theorem test_roundFunction :
    lut (.roundFunction 0x12345678#32 0x0123456789AB#48) = some (.word32 0xCA23B070#32) := by decide +kernel
theorem test_encryptBlock :
    lut (.encryptBlock 0x0123456789ABCDEF#64 0x133457799BBCDFF1#64) = some (.block 0x85E813540F0AB405#64) := by
  decide +kernel
theorem test_encryptBlock_now_is_t :
    lut (.encryptBlock 0x4E6F772069732074#64 0x0123456789ABCDEF#64) = some (.block 0x3FA40E8A984D4815#64) := by
  decide +kernel

/-! ## Host procedures (V10) -/

/-- The key of V1 as bytes. -/
def keyBytes : List Byte := [0x13#8, 0x34#8, 0x57#8, 0x79#8, 0x9B#8, 0xBC#8, 0xDF#8, 0xF1#8]

/-- The plaintext of V1 as bytes. -/
def plainBytes : List Byte := [0x01#8, 0x23#8, 0x45#8, 0x67#8, 0x89#8, 0xAB#8, 0xCD#8, 0xEF#8]

/-- The ciphertext of V1 as bytes. -/
def cipherBytes : List Byte := [0x85#8, 0xE8#8, 0x13#8, 0x54#8, 0x0F#8, 0x0A#8, 0xB4#8, 0x05#8]

theorem test_bytesToWord :
    lut (.bytesToWord ⟨0x13#8, 0x34#8, 0x57#8, 0x79#8, 0x9B#8, 0xBC#8, 0xDF#8, 0xF1#8⟩) =
      some (.block 0x133457799BBCDFF1#64) := by rfl
theorem test_wordToBytes : bytesToList (wordToBytes 0x85E813540F0AB405#64) = cipherBytes := by decide
theorem test_encrypt8 : lut (.encrypt8 plainBytes keyBytes) = some (.bytes cipherBytes) := by decide +kernel
theorem test_encrypt8_short_key :
    lut (.encrypt8 plainBytes (keyBytes.take 7)) = some (.error (.invalidKeyLength 7)) := by rfl
theorem test_encrypt16_does_not_chain :
    lut (.encrypt16 (plainBytes ++ plainBytes) keyBytes) = some (.bytes (cipherBytes ++ cipherBytes)) := by
  decide +kernel
theorem test_encrypt_badlength :
    lut (.encryptBadlength (0#8 :: plainBytes) keyBytes) = some (.error (.invalidInputLength 9)) := by rfl
theorem test_encrypt_badlength_empty :
    lut (.encryptBadlength [] keyBytes) = some (.error (.invalidInputLength 0)) := by rfl
theorem test_mirror8 : lut (.mirror8 0x41#8) = some (.byte 0x82#8) := by rfl
theorem test_mirror8_nibble : lut (.mirror8 0x0F#8) = some (.byte 0xF0#8) := by rfl
theorem test_derive_key_pads :
    lut (.deriveKeyFromPassword ['m', 'y', 'p', 'a', 's', 's']) = some (.block 0xB69E0E86CECE0000#64) := by
  decide +kernel
theorem test_derive_key_drops :
    lut (.deriveKeyFromPassword ['m', 'y', 'p', 'a', 's', 's', 'w', 'o', 'r', 'd']) =
      some (.block 0xB69E0E86CECEEEF6#64) := by decide +kernel
theorem test_encrypt_with_password :
    lut (.encryptWithPassword
        [0xA4#8, 0xB2#8, 0xC9#8, 0xEF#8, 0x08#8, 0x76#8, 0xC1#8, 0xCE#8,
         0x43#8, 0x8D#8, 0xE2#8, 0x82#8, 0x38#8, 0x20#8, 0x8D#8, 0xDE#8] ['m', 'y', 'p', 'a', 's', 's']) =
      some (.bytes
        [0xFA#8, 0x60#8, 0x69#8, 0xB9#8, 0x85#8, 0xFA#8, 0x1C#8, 0xF7#8,
         0xF9#8, 0x7D#8, 0xC6#8, 0x30#8, 0xB7#8, 0xC4#8, 0x7F#8, 0x71#8]) := by decide +kernel

/-! ## Witnesses: for each statement with hypotheses, values that meet them together -/

/-- DecodeOfEncodeIsTheInstruction. -/
theorem witness_encode : encode (.s8 0b11#2 0b0011#4) = some (.lut 0b111_11_0011#9) := by rfl

/-- EncodeOfDecodeIsTheWord: the third clause at a load, and the other kinds in `test_decode_fperm`,
`test_decode_s8`. -/
theorem witness_decode_load :
    decode (.command 0b1_001#67) = .ok (.ldkey 1#64) ∧ cmdField 0b1_001#67 = 0b001#3 := by decide

/-- LdkeyLoadsTheKeyWhenIdle, LdblkLoadsTheBlockWhenIdle, StartBeginsOrIsRefusedWhenIdle. -/
theorem witness_idle :
    (idleState.phase = .idle ∧ idleState.kv = true ∧ idleState.bv = true) ∧
    (State.reset.phase = .idle ∧ State.reset.kv = false) ∧
    ({ State.reset with kv := true }.phase = Phase.idle ∧ { State.reset with kv := true }.bv = false) := by decide

/-- NopChangesNothing, third clause: a reserved code and LDKEY while busy. -/
theorem witness_busy_command :
    decode (.command (commandWord 0b111#3 0#64)) = .ok (.rsvd 0b11#2) ∧
    decode (.command (commandWord 0b001#3 0#64)) = .ok (.ldkey 0#64) ∧ (busyState .fperm 0).phase ≠ .idle := by
  decide

/-- CommandsWhileBusySetBusycmdOnly: the first and the last busy phase, each command. -/
theorem witness_busy :
    (busyState .kspc1 0).phase ≠ .idle ∧ (busyState .fperm 0).phase ≠ .idle ∧
    ((Instr.ldkey 7#64 = .ldkey 7#64) ∨ Instr.ldkey 7#64 = .ldblk 7#64 ∨ Instr.ldkey 7#64 = .start) ∧
    (Instr.start = .ldkey 7#64 ∨ Instr.start = .ldblk 7#64 ∨ Instr.start = .start) := by decide

/-- CommandsWhileBusySetBusycmdOnly, ReservedCodesSetIllcmdOnly: samples with `rst` = 0; the first and the last reserved
code. -/
theorem witness_reserved :
    (0b100#3).getLsbD 2 = true ∧ (0b111#3).getLsbD 2 = true ∧ (sample 0b111#3 0#64).rst = false ∧
    (sample 0b011#3 0#64).rst = false ∧ (sample 0b011#3 0#64).cmd = 0b011#3 := by decide

/-- KsrotDoesOneRoundOfTheKeySchedule and RoundDoesOneFeistelRound: the first and the last round. -/
theorem witness_rounds :
    (busyState .ksrot 1).rnd.val = (0 : Fin 16).val + 1 ∧
    (busyState .round 16).rnd.val = (15 : Fin 16).val + 1 := by decide

/-- RoundMicroOpsStopOutsideTheRounds: RND = 0. -/
theorem witness_outside_rounds :
    exec .ksrot (busyState .ksrot 0) = .fault .rndOutOfRange ∧
    exec .round (busyState .round 0) = .fault .rndOutOfRange := ⟨rfl, rfl⟩

/-- PermuteSelectsTheNamedBits: entries at both ends of 1..W, an index in the table. -/
theorem witness_table : (∀ p ∈ [1, 4, 4], 1 ≤ p ∧ p ≤ 4) ∧ 2 < [1, 4, 4].length := by decide

/-- PermuteStopsOnAMalformedTable: an entry below and an entry above 1..W. -/
theorem witness_bad_table : (∃ p ∈ [1, 0], p = 0 ∨ 4 < p) ∧ (∃ p ∈ [5], p = 0 ∨ 4 < p) := by decide

/-- Rotl28RotatesWithinTwentyEightBits, Mirror8ReversesTheBits, RoundFunctionFollowsTheFiveSteps, BytesToWordIsBigEndian:
the ends of their index ranges. -/
theorem witness_indices :
    (0 < 28 ∧ 27 < 28) ∧ (0 ≤ 7 ∧ 7 ≤ 7) ∧ (1 ≤ 1 ∧ 1 ≤ 8) ∧ (1 ≤ 8 ∧ 8 ≤ 8) ∧
    0 < (bytesToList (wordToBytes 0#64)).length ∧ 7 < (bytesToList (wordToBytes 0#64)).length := by decide

/-- ParityBitsHaveNoEffect: all eight parity bits; the passwords of one byte, C1 and 41 (V10). -/
theorem witness_parity :
    0x0101010101010101#64 &&& 0xFEFEFEFEFEFEFEFE#64 = 0#64 ∧
    [0xC1#8].map (fun b => b &&& 0x7F#8) = [0x41#8].map (fun b => b &&& 0x7F#8) := by decide

/-- RoundFunctionSeesOnlyTheXor: rows 1 and 2 of V9. -/
theorem witness_same_xor :
    permute tableE 0#32 ^^^ 0#48 = permute tableE 0xFFFFFFFF#32 ^^^ 0xFFFFFFFFFFFF#48 := by decide +kernel

/-- EncryptBlockIsABijectionForEachKey. -/
theorem witness_same_block : encryptBlock 0#64 0#64 = encryptBlock 0#64 0#64 := rfl

/-- EncryptOfEightBytesIsOneBlock, EncryptOfSixteenBytesIsTwoIndependentBlocks. -/
theorem witness_lengths :
    plainBytes.length = 8 ∧ keyBytes.length = 8 ∧ (plainBytes ++ cipherBytes).length = 16 := by decide

/-- EncryptReturnsInvalidInputLengthExactly: lengths 0, 7, 9, 15 and 17 beside 8 and 16. -/
theorem witness_bad_lengths :
    ∀ n ∈ [0, 7, 9, 15, 17],
      (List.replicate n 0#8).length ≠ 8 ∧ (List.replicate n 0#8).length ≠ 16 ∧ keyBytes.length = 8 := by decide

/-- EncryptChecksTheKeyLengthFirst: keys of 7 and 9 bytes, each of the three rows. -/
theorem witness_bad_key :
    (keyBytes.take 7).length ≠ 8 ∧ (0#8 :: keyBytes).length ≠ 8 ∧
    (Instr.encryptBadlength [] [] = .encrypt8 [] [] ∨ Instr.encryptBadlength [] [] = .encrypt16 [] [] ∨
      Instr.encryptBadlength [] [] = .encryptBadlength [] []) := by decide

/-- PasswordKeyMirrorsEachByte: the last byte of the text, the first position past its end, the ends of the printable
range. -/
theorem witness_password :
    5 < (encodePassword ['m', 'y', 'p', 'a', 's', 's']).length ∧
    (encodePassword ['m', 'y', 'p', 'a', 's', 's']).length ≤ 6 ∧
    (∀ ch ∈ [' ', '~'], 0x20 ≤ ch.toNat ∧ ch.toNat ≤ 0x7E) := by
  refine ⟨by decide, by decide, ?_⟩
  intro ch h
  simp only [List.mem_cons, List.not_mem_nil, or_false] at h
  rcases h with rfl | rfl <;> decide

/-- EncryptWithPasswordUsesTheDerivedKey. -/
theorem witness_password_message :
    (plainBytes.length = 8 ∨ plainBytes.length = 16) ∧
    ((plainBytes ++ plainBytes).length = 8 ∨ (plainBytes ++ plainBytes).length = 16) ∧
    ((0#8 :: plainBytes).length ≠ 8 ∧ (0#8 :: plainBytes).length ≠ 16) := by decide

/-- StepRunsTheSampledCommand, idle clause. -/
theorem witness_step_idle :
    { idleState with host := [sample 0b001#3 7#64] }.host = sample 0b001#3 7#64 :: [] ∧
    (sample 0b001#3 7#64).rst = false ∧ decode (.command (sample 0b001#3 7#64).word) = .ok (.ldkey 7#64) ∧
    { idleState with host := [sample 0b001#3 7#64] }.phase = Phase.idle := by
  refine ⟨rfl, rfl, ?_, rfl⟩; decide

/-- StepRunsTheSampledCommand, busy clause. -/
theorem witness_step_busy :
    { busyState .fperm 0 with host := [sample 0b000#3 0#64] }.host = sample 0b000#3 0#64 :: [] ∧
    (sample 0b000#3 0#64).rst = false ∧ decode (.command (sample 0b000#3 0#64).word) = .ok .nop ∧
    (busyState .fperm 0).phase ≠ .idle ∧ decode (.phase (busyState .fperm 0).phase.code) = .ok .fperm ∧
    exec .nop (busyState .fperm 0) = .next (busyState .fperm 0) := by
  refine ⟨rfl, rfl, rfl, by decide, rfl, rfl⟩

/-- ResetEdgeClearsControlState. -/
theorem witness_reset_sample : ({ rst := true, cmd := 0b011#3, din := 0#64 } : PortIn).rst = true := rfl

/-- AFaultingCommandIsANopButForItsErrBit: each of the three faults, and the NOP edge beside it. -/
theorem witness_faults :
    (faultOf (sample 0b101#3 0#64) idleState = 0b001#3 ∧
      edge { sample 0b101#3 0#64 with cmd := 0b000#3 } idleState = .next idleState) ∧
    (faultOf (sample 0b011#3 0#64) State.reset = 0b100#3 ∧
      edge { sample 0b011#3 0#64 with cmd := 0b000#3 } State.reset = .next State.reset) ∧
    (faultOf (sample 0b001#3 0#64) (busyState .fperm 0) = 0b010#3 ∧
      ∃ t : State, edge { sample 0b001#3 0#64 with cmd := 0b000#3 } (busyState .fperm 0) = .next t) := by
  refine ⟨⟨by decide, rfl⟩, ⟨by decide, rfl⟩, by decide, ⟨_, rfl⟩⟩

/-- AFaultingCommandIsANopButForItsErrBit: a later edge that answers a next state. -/
theorem witness_later_edges : runEdges [sample 0b001#3 7#64] idleState = .next (loadKey 7#64 idleState) := by rfl

/-- ErrAccumulatesExactlyTheFaults, NoRuleReadsErr, RegistersChangeOnlyByTheirWriters, DoneIsSetAndClearedAsStated: an
edge in IDLE that answers a next state. -/
theorem witness_edge_idle :
    (sample 0b011#3 0#64).rst = false ∧
    edge (sample 0b011#3 0#64) idleState = .next { idleState with phase := .kspc1, done := false } :=
  ⟨rfl, rfl⟩

/-- ErrAccumulatesExactlyTheFaults: a START that keeps R270, the host having taken the result. -/
theorem witness_disciplined :
    Disciplined { takes := true, sample := sample 0b011#3 0#64, aborts := false } idleState := by
  constructor <;> decide

/-- ErrAccumulatesExactlyTheFaults: a reset while idle keeps R270, and so does one that means to abort (H6). -/
theorem witness_disciplined_reset :
    Disciplined { takes := false, sample := { rst := true, cmd := 0b000#3, din := 0#64 }, aborts := false } idleState ∧
    Disciplined { takes := false, sample := { rst := true, cmd := 0b000#3, din := 0#64 }, aborts := true }
      (busyState .round 3) := by
  constructor <;> constructor <;> decide

/-- R270 refuses a reset of a running operation that is not meant to abort it, and a load before the result is taken. -/
theorem test_undisciplined :
    ¬ Disciplined { takes := false, sample := { rst := true, cmd := 0b000#3, din := 0#64 }, aborts := false }
      (busyState .round 3) ∧
    ¬ TakesBeforeLoad false { takes := false, sample := sample 0b010#3 9#64, aborts := false } idleState :=
  ⟨fun h => absurd (h.h6 rfl rfl) (by decide), fun h => absurd (h rfl (.inr rfl) rfl) (by decide)⟩

/-- A reset, then LDKEY, at edges that keep R270. -/
def disciplinedActions : List HostAction :=
  [{ takes := false, sample := { rst := true, cmd := 0b000#3, din := 0#64 }, aborts := false },
    { takes := false, sample := sample 0b001#3 7#64, aborts := false }]

/-- ErrAccumulatesExactlyTheFaults: a run that keeps R270 from its first reset on, begun in the middle of an operation. -/
theorem witness_host_discipline :
    disciplinedActions ≠ [] ∧ HostDiscipline disciplinedActions (busyState .round 3) ∧
    runEdges (disciplinedActions.map HostAction.sample) (busyState .round 3) =
      .next (loadKey 7#64 (resetEdge (busyState .round 3))) := by
  refine ⟨by decide, ⟨rfl, rfl, ?_⟩, rfl⟩
  intro t ht
  have ht : resetEdge (busyState .round 3) = t := by
    have : edge { rst := true, cmd := 0b000#3, din := 0#64 } (busyState .round 3) = .next t := ht
    rw [show edge { rst := true, cmd := 0b000#3, din := 0#64 } (busyState .round 3) =
      .next (resetEdge (busyState .round 3)) from rfl] at this
    injection this
  subst ht
  refine ⟨⟨?_, ?_, ?_, ?_, ?_⟩, ?_, fun _ _ => trivial⟩
  · exact fun _ h =>
      absurd (h.symm.trans (rfl : busyPort (resetEdge (busyState .round 3)) = false)) (by decide)
  · exact fun _ h => absurd h (by decide)
  · exact fun h => absurd h (by decide)
  · exact fun h => absurd h (by decide)
  · exact fun _ => by decide
  · exact fun _ _ h => absurd h (by decide)

/-- ErrAccumulatesExactlyTheFaults: an edge with `rst` = 1. -/
theorem witness_edge_reset :
    edge { rst := true, cmd := 0b000#3, din := 0#64 } idleState = .next (resetEdge idleState) := by rfl

/-- PhaseAndRoundAdvanceAsStated, ControlDoesNotDependOnData: an edge that answers a next state in every busy phase, at
the first and the last round. -/
theorem witness_edge_busy :
    ∀ s ∈ [busyState .kspc1 0, busyState .ksrot 1, busyState .ksrot 16, busyState .iperm 0,
        busyState .round 1, busyState .round 16, busyState .fperm 0],
      (seen (edge (sample 0b000#3 0#64) s) State.kv) = some true := by decide +kernel

/-- ControlDoesNotDependOnData: two states and samples that agree on the control values and differ in the data. -/
theorem witness_same_control :
    (sample 0b001#3 5#64).rst = (sample 0b001#3 9#64).rst ∧ (sample 0b001#3 5#64).cmd = (sample 0b001#3 9#64).cmd ∧
    idleState.phase = { idleState with key := 1#64 }.phase ∧ idleState.rnd = { idleState with key := 1#64 }.rnd ∧
    idleState.kv = { idleState with key := 1#64 }.kv ∧ idleState.bv = { idleState with key := 1#64 }.bv ∧
    edge (sample 0b001#3 5#64) idleState = .next { idleState with key := 5#64, done := false } :=
  ⟨rfl, rfl, rfl, rfl, rfl, rfl, rfl⟩

/-- EveryStepKeepsTheControlInv, EveryStepKeepsTheEngineInv, NoReachableStepStops: at the last round, from a state that
meets the full invariant. -/
theorem witness_invariant_busy :
    EngineInv { busyState .kspc1 0 with host := [sample 0b000#3 0#64] } ∧
    seen (step { busyState .kspc1 0 with host := [sample 0b000#3 0#64] }) State.phase = some .ksrot := by
  refine ⟨⟨by decide, by decide, trivial⟩, by decide +kernel⟩

/-- EveryStepKeepsTheControlInv, EveryStepKeepsTheEngineInv, NoReachableStepStops: in IDLE, with a result. -/
theorem witness_invariant_done :
    EngineInv { idleState with host := [sample 0b000#3 0#64] } ∧
    step { idleState with host := [sample 0b000#3 0#64] } = .next idleState := by
  refine ⟨⟨by decide, ?_, trivial⟩, rfl⟩; unfold DoneInv; decide +kernel

/-- The samples after START in the run statements: every command code in turn, `rst` = 0. -/
def runSamples : List PortIn := (List.range 35).map fun n => sample (BitVec.ofNat 3 n) (BitVec.ofNat 64 n)

/-- A state with the V1 operands loaded and START and 35 more edges lined up. -/
def startState : State := { idleState with host := sample 0b011#3 0#64 :: (runSamples ++ []) }

/-- OperationFollowsTheTimeline (k = 35), OperationComputesEncryptBlock, ResultDependsOnKeyAndBlockAlone. -/
theorem witness_operation :
    startState.phase = .idle ∧ startState.rnd = 0 ∧ startState.kv = true ∧ startState.bv = true ∧
    startState.host = sample 0b011#3 0#64 :: (runSamples ++ []) ∧ (sample 0b011#3 0#64).rst = false ∧
    (sample 0b011#3 0#64).cmd = 0b011#3 ∧ runSamples.length = 35 ∧ ∀ q ∈ runSamples, q.rst = false := by
  refine ⟨rfl, rfl, rfl, rfl, rfl, rfl, rfl, by decide, by decide⟩

/-- OperationFollowsTheTimeline (k = 0): all the samples after START are left over. -/
theorem witness_operation_start :
    startState.host = sample 0b011#3 0#64 :: ([] ++ runSamples) ∧ ([] : List PortIn).length = 0 := by
  refine ⟨?_, rfl⟩; simp [startState]

/-- OperationFollowsTheTimeline, the clauses on WAIT: k = 0, k = 34 and the two states in IDLE. -/
theorem witness_wait :
    (((busyState .kspc1 0).phase, (busyState .kspc1 0).rnd) = timeline 0 ∧ (busyState .kspc1 0).done = false) ∧
    (((busyState .fperm 0).phase, (busyState .fperm 0).rnd) = timeline 34 ∧ (busyState .fperm 0).done = false) ∧
    idleState.done = true ∧ State.reset.done = false ∧ State.reset.phase = .idle := by decide

/-- WAIT before ROUND(16) is two lines: ROUND and FPERM are left (R76, R191). -/
theorem test_wait_before_round_16 :
    waitLines 5#64 (dataState .round 16 0xC28C960D#32 0x43423234#32) = some [.nop, .nop] := by decide +kernel

/-- WAIT where `done` is 1 is no line, and where nothing is loaded it has no expansion (log 22). -/
theorem test_wait_idle : waitLines 5#64 idleState = some [] ∧ waitLines 5#64 State.reset = none := by decide +kernel

/-- R220: a message of 9 bytes and a key of 7 are refused before the first command; OperationFollowsTheTimeline, its last
clause: lengths that fail a check. -/
theorem test_on_engine_refused :
    encryptLines 0#64 (0#8 :: plainBytes) keyBytes idleState = some [] ∧
    encryptOnEngine 0#64 (0#8 :: plainBytes) keyBytes idleState = some (.error (.invalidInputLength 9)) ∧
    encryptOnEngine 0#64 plainBytes (keyBytes.take 7) idleState = some (.error (.invalidKeyLength 7)) ∧
    (0#8 :: plainBytes).length ≠ 8 ∧ (0#8 :: plainBytes).length ≠ 16 ∧ (keyBytes.take 7).length ≠ 8 :=
  ⟨rfl, rfl, rfl, by decide, by decide, by decide⟩

/-- A program of two items expands item by item (R76). -/
theorem test_expand_program :
    expandProgram 0#64 [.nops 2, .wait, .line (.rsvd 0b01#2)] idleState = some [.nop, .nop, .rsvd 0b01#2] := by
  decide +kernel

/-- ResultDependsOnKeyAndBlockAlone: a second state with the same KEY and DIN, other data, and other samples. -/
theorem witness_two_operations :
    startState.key = { startState with c := 3#28, err := 0b111#3 }.key ∧
    startState.din = { startState with c := 3#28, err := 0b111#3 }.din ∧
    (runSamples.map fun q => { q with cmd := 0b000#3 }).length = 35 ∧
    (∀ q ∈ runSamples.map fun q => { q with cmd := 0b000#3 }, q.rst = false) :=
  ⟨rfl, rfl, by decide, by decide⟩

end Sys2Proof.Tests
end

section
/-! PROOFS. One step in terms of `decode` and `exec`: the sample taken, the command rule, then the rule of the phase. -/

namespace Sys2Proof.Machine

/-- What a step takes from the ports: the first lined-up sample, or the free value when none is lined up (log 1). -/
theorem samplePorts_takeSample_eq {s s0 : State} {p : PortIn}
    (h : (∃ rest : List PortIn, s.host = p :: rest ∧ s0 = { s with host := rest }) ∨
      (s.host = [] ∧ p = Config.hostInput s.draws ∧ s0 = { s with draws := s.draws + 1 })) :
    samplePorts s = p ∧ takeSample s = s0 := by
  rcases h with ⟨rest, hhost, rfl⟩ | ⟨hhost, rfl, rfl⟩
  · exact ⟨samplePorts_cons hhost, takeSample_cons hhost⟩
  · exact ⟨samplePorts_nil hhost, takeSample_nil hhost⟩

theorem commandPart_of_decode {p : PortIn} {i : Instr} (h : decode (.command p.word) = .ok i) (s : State) :
    commandPart p s = exec i s := by
  simp [commandPart, h]

theorem microPart_of_decode {ph : Phase} {m : Instr} (h : decode (.phase ph.code) = .ok m) (s : State) :
    microPart ph s = exec m s := by
  simp [microPart, h]

/-- In IDLE no micro-operation follows the command rule (R176). -/
theorem andThen_microPart_idle (o : Host.Outcome State Fault Refusal) : andThen o (microPart .idle) = o := by
  cases o with
  | next s => exact microPart_eq .idle s
  | fault e => rfl
  | refused e => rfl

/-- An edge without reset: the decoded command, then the rule of the phase before the edge (R8, R176). -/
theorem edge_of_decode {p : PortIn} {i : Instr} (hr : p.rst = false) (hd : decode (.command p.word) = .ok i)
    (s : State) : edge p s = andThen (exec i s) (microPart s.phase) := by
  simp [edge, hr, commandPart_of_decode hd]

/-- A step whose sample decodes to a command; taking the sample leaves PHASE alone. -/
theorem step_of_decode {s : State} {i : Instr} (hr : (samplePorts s).rst = false)
    (hd : decode (.command (samplePorts s).word) = .ok i) :
    step s = andThen (exec i (takeSample s)) (microPart s.phase) := by
  rw [step_eq, edge_of_decode hr hd, takeSample_phase]

/-- Settles O44: the step is the decoded command followed by `microPart` of the PHASE before the edge, which does nothing
in IDLE and is the decoded micro-operation while busy. -/
theorem stepRunsTheSampledCommand : Obligations.StepRunsTheSampledCommand := by
  intro s s0 p i hsample hr hd
  obtain ⟨rfl, rfl⟩ := samplePorts_takeSample_eq hsample
  have hstep := step_of_decode hr hd
  constructor
  · intro hidle
    rw [hstep, hidle, andThen_microPart_idle]
  · intro m t _ hm hexec
    rw [hstep, hexec, andThen_next, microPart_of_decode hm]

end Sys2Proof.Machine
end

section
/-! PROOFS. Everything an edge can do, by the kind of edge: with `rst` = 1 the reset rule; in IDLE the rule of the command;
while busy the micro-operation of the phase. Proofs about an edge split into these cases. -/

namespace Sys2Proof.Machine

/-- What the command of the sample `p` makes of a state in IDLE (R180 to R185). -/
inductive CommandResult (p : PortIn) (s : State) : State → Prop
  | nop (hc : p.cmd = 0b000#3) : CommandResult p s s
  | ldkey (hc : p.cmd = 0b001#3) : CommandResult p s (loadKey p.din s)
  | ldblk (hc : p.cmd = 0b010#3) : CommandResult p s (loadBlock p.din s)
  | start (hc : p.cmd = 0b011#3) (hk : s.kv = true) (hb : s.bv = true) :
    CommandResult p s { s with phase := .kspc1, done := false }
  | unloaded (hc : p.cmd = 0b011#3) (hl : ¬ (s.kv = true ∧ s.bv = true)) : CommandResult p s (raiseFault unloadedBit s)
  | reserved (hc : p.cmd.getLsbD 2 = true) : CommandResult p s (raiseFault illcmdBit s)

/-- What the micro-operation of its phase makes of a busy state (R186 to R190). -/
inductive MicroResult (s : State) : State → Prop
  | kspc1 (hp : s.phase = .kspc1) : MicroResult s (enterRounds .ksrot (setKeyHalves (initialKeyHalves s.key) s))
  | ksrot (hp : s.phase = .ksrot) (i : Fin 16) (hi : s.rnd.val = i.val + 1) : MicroResult s (keyRound i s)
  | iperm (hp : s.phase = .iperm) : MicroResult s (enterRounds .round (setDataHalves (initialDataHalves s.din) s))
  | round (hp : s.phase = .round) (i : Fin 16) (hi : s.rnd.val = i.val + 1) : MicroResult s (dataRound i s)
  | fperm (hp : s.phase = .fperm) : MicroResult s { s with dout := finalBlock (s.l, s.r), done := true, phase := .idle }

theorem beginOperation_of_not_loaded {s : State} (h : ¬ (s.kv = true ∧ s.bv = true)) :
    beginOperation s = raiseFault unloadedBit s :=
  beginOperation_unloaded (by simpa [imp_iff_not_or] using h)

/-- An edge in IDLE is the rule of its command. -/
theorem edge_idle_iff {p : PortIn} {s t : State} (hr : p.rst = false) (hi : s.phase = .idle) :
    edge p s = .next t ↔ CommandResult p s t := by
  rw [edge_idle hr hi]
  constructor
  · intro h
    injection h with h
    subst h
    rcases cmd_cases p.cmd with hc | hc | hc | hc | hc
    · simpa [hc] using CommandResult.nop hc
    · simpa [hc] using CommandResult.ldkey hc
    · simpa [hc] using CommandResult.ldblk hc
    · by_cases hl : s.kv = true ∧ s.bv = true
      · simpa [hc, beginOperation_loaded hl.1 hl.2] using CommandResult.start hc hl.1 hl.2
      · simpa [hc, beginOperation_of_not_loaded hl] using CommandResult.unloaded hc hl
    · simpa [reserved_ne hc] using CommandResult.reserved hc
  · intro h
    cases h with
    | nop hc => simp [hc]
    | ldkey hc => simp [hc]
    | ldblk hc => simp [hc]
    | start hc hk hb => simp [hc, beginOperation_loaded hk hb]
    | unloaded hc hl => simp [hc, beginOperation_of_not_loaded hl]
    | reserved hc => simp [reserved_ne hc]

theorem microPart_iff {s t : State} (hb : s.phase ≠ .idle) : microPart s.phase s = .next t ↔ MicroResult s t := by
  constructor
  · intro h
    rcases microPart_cases h with ⟨e, _⟩ | ⟨e, rfl⟩ | ⟨e, i, hi, rfl⟩ | ⟨e, rfl⟩ | ⟨e, i, hi, rfl⟩ | ⟨e, rfl⟩
    · exact absurd e hb
    · exact .kspc1 e
    · exact .ksrot e i hi
    · exact .iperm e
    · exact .round e i hi
    · exact .fperm e
  · intro h
    cases h with
    | kspc1 hp => rw [hp]; rfl
    | ksrot hp i hi => rw [hp]; exact inRound_of_val keyRound hi
    | iperm hp => rw [hp]; rfl
    | round hp i hi => rw [hp]; exact inRound_of_val dataRound hi
    | fperm hp => rw [hp]; rfl

/-- An edge while busy is the micro-operation of its phase, in the state with the ERR bit of the command set. -/
theorem edge_busy_iff {p : PortIn} {s t : State} (hr : p.rst = false) (hb : s.phase ≠ .idle) :
    edge p s = .next t ↔ MicroResult (raiseFault (busyFaultBit p) s) t := by
  rw [edge_busy hr hb]
  exact microPart_iff (s := raiseFault (busyFaultBit p) s) hb

/-- The three kinds of edge. -/
theorem edge_results {p : PortIn} {s t : State} (h : edge p s = .next t) :
    (p.rst = true ∧ t = resetEdge s) ∨
    (p.rst = false ∧ s.phase = .idle ∧ CommandResult p s t) ∨
    (p.rst = false ∧ s.phase ≠ .idle ∧ MicroResult (raiseFault (busyFaultBit p) s) t) := by
  rcases edge_cases h with ⟨hr, ht⟩ | ⟨hr, hi, _⟩ | ⟨hr, hb, _⟩
  · exact .inl ⟨hr, ht⟩
  · exact .inr (.inl ⟨hr, hi, (edge_idle_iff hr hi).mp h⟩)
  · exact .inr (.inr ⟨hr, hb, (edge_busy_iff hr hb).mp h⟩)

end Sys2Proof.Machine
end

section
/-! PROOFS. PHASE and RND along the edges (R20, R21), and the control invariant (R28). -/

namespace Sys2Proof.Machine
open Sys2Proof.Safety

/-- PHASE and RND after a round of the sixteen-round phase `loop`, which `after` follows (R21). -/
def nextRound (loop after : Phase) (n : RoundNumber) : Phase × RoundNumber :=
  if n < 16 then (loop, n + 1) else (after, 0)

/-- PHASE and RND after the micro-operation of a phase, as R20 and R21 state them: from PHASE and RND alone. -/
def nextControl : Phase → RoundNumber → Phase × RoundNumber
  | .idle, n => (.idle, n)
  | .kspc1, _ => (.ksrot, 1)
  | .ksrot, n => nextRound .ksrot .iperm n
  | .iperm, _ => (.round, 1)
  | .round, n => nextRound .round .fperm n
  | .fperm, n => (.idle, n)

theorem advanceRound_control (loop after : Phase) {s : State} (hp : s.phase = loop) :
    ((advanceRound after s).phase, (advanceRound after s).rnd) = nextRound loop after s.rnd := by
  unfold advanceRound nextRound
  split <;> simp [hp]

theorem MicroResult.control {s t : State} (h : MicroResult s t) : (t.phase, t.rnd) = nextControl s.phase s.rnd := by
  cases h with
  | kspc1 hp => simp [hp, nextControl]
  | ksrot hp i _ => rw [hp]; exact advanceRound_control .ksrot .iperm hp
  | iperm hp => simp [hp, nextControl]
  | round hp i _ => rw [hp]; exact advanceRound_control .round .fperm hp
  | fperm hp => simp [hp, nextControl]

theorem MicroResult.phase_eq {s t : State} (h : MicroResult s t) : t.phase = (nextControl s.phase s.rnd).1 :=
  congrArg Prod.fst h.control

theorem MicroResult.rnd_eq {s t : State} (h : MicroResult s t) : t.rnd = (nextControl s.phase s.rnd).2 :=
  congrArg Prod.snd h.control

/-- While busy, PHASE and RND advance by `nextControl`, whatever the host presents with `rst` = 0. -/
theorem edge_busy_control {p : PortIn} {s t : State} (hr : p.rst = false) (hb : s.phase ≠ .idle)
    (h : edge p s = .next t) : (t.phase, t.rnd) = nextControl s.phase s.rnd :=
  ((edge_busy_iff hr hb).mp h).control

/-- In IDLE only an accepted START changes PHASE, and nothing changes RND. -/
theorem CommandResult.control {p : PortIn} {s t : State} (hi : s.phase = .idle) (h : CommandResult p s t) :
    t.rnd = s.rnd ∧ t.phase = if p.cmd = 0b011#3 ∧ s.kv = true ∧ s.bv = true then .kspc1 else .idle := by
  cases h with
  | nop hc => simp [hi, hc]
  | ldkey hc => simp [hi, hc]
  | ldblk hc => simp [hi, hc]
  | start hc hk hb => simp [hc, hk, hb]
  | unloaded hc hl => exact ⟨rfl, hi.trans (if_neg fun h => hl h.2).symm⟩
  | reserved hc => simp [hi, reserved_ne hc]

/-- Before round 16 the phase stays and RND counts up. -/
theorem nextRound_of_lt {loop after ph : Phase} {n m : RoundNumber} (h : (ph, m) = nextRound loop after n)
    (hlt : n.val < 16) : ph = loop ∧ m.val = n.val + 1 := by
  rw [nextRound, if_pos (show n < 16 from hlt)] at h
  obtain ⟨hph, hm⟩ := Prod.mk.inj h
  exact ⟨hph, by rw [hm, Fin.val_add_one_of_lt hlt]⟩

/-- At round 16 the next phase begins with RND = 0. -/
theorem nextRound_of_eq {loop after ph : Phase} {n m : RoundNumber} (h : (ph, m) = nextRound loop after n)
    (h16 : n.val = 16) : ph = after ∧ m = 0 := by
  rw [nextRound, if_neg (show ¬ n < 16 from Nat.not_lt.mpr h16.ge)] at h
  exact Prod.mk.inj h

/-- Settles O52: in IDLE by the command, while busy by `nextControl`, read off phase by phase. -/
theorem phaseAndRoundAdvanceAsStated : Obligations.PhaseAndRoundAdvanceAsStated := by
  intro p s t hr h
  have busy {ph : Phase} (hb : ph ≠ .idle) (hp : s.phase = ph) : (t.phase, t.rnd) = nextControl ph s.rnd :=
    hp ▸ edge_busy_control hr (hp ▸ hb) h
  refine ⟨fun hp => ((edge_idle_iff hr hp).mp h).control hp, fun hp => ?_, fun hp => ?_, fun hp => ?_, fun hp => ?_,
    fun hp => ?_, fun hp => ?_, fun hp => ?_⟩
  · exact Prod.mk.inj (busy (by decide) hp)
  · exact nextRound_of_lt (busy (by decide) hp)
  · exact nextRound_of_eq (busy (by decide) hp)
  · exact Prod.mk.inj (busy (by decide) hp)
  · exact nextRound_of_lt (busy (by decide) hp)
  · exact nextRound_of_eq (busy (by decide) hp)
  · exact Prod.mk.inj (busy (by decide) hp)

/-- `nextControl` keeps RND in 1..16 exactly in KSROT and ROUND. -/
theorem nextControl_rnd_iff {ph : Phase} {n : RoundNumber} (h : 1 ≤ n.val ↔ ph = .ksrot ∨ ph = .round) :
    1 ≤ (nextControl ph n).2.val ↔ (nextControl ph n).1 = .ksrot ∨ (nextControl ph n).1 = .round := by
  revert h
  cases ph <;> revert n <;> decide

/-- The flags after a micro-operation: FPERM alone writes one, DONE. -/
theorem MicroResult.flags {s t : State} (h : MicroResult s t) :
    t.kv = s.kv ∧ t.bv = s.bv ∧ t.done = if s.phase = .fperm then true else s.done := by
  cases h with
  | kspc1 hp => simp [hp]
  | ksrot hp i _ => simp [hp, keyRound]
  | iperm hp => simp [hp]
  | round hp i _ => simp [hp, dataRound]
  | fperm hp => simp [hp]

theorem MicroResult.controlInv {s t : State} (h : MicroResult s t) (hb : s.phase ≠ .idle) (hinv : ControlInv s) :
    ControlInv t := by
  obtain ⟨hrnd, hbusy⟩ := hinv
  obtain ⟨hk, hv, hd⟩ := hbusy hb
  obtain ⟨htk, htv, htd⟩ := h.flags
  constructor
  · rw [h.phase_eq, h.rnd_eq]
    exact nextControl_rnd_iff hrnd
  · intro htb
    have hnf : s.phase ≠ .fperm := fun hf => htb (by rw [h.phase_eq, hf]; rfl)
    exact ⟨htk.trans hk, htv.trans hv, by rw [htd, if_neg hnf, hd]⟩

theorem CommandResult.controlInv {p : PortIn} {s t : State} (h : CommandResult p s t) (hi : s.phase = .idle)
    (hinv : ControlInv s) : ControlInv t := by
  have h0 : s.rnd.val = 0 := by simpa [hi] using hinv.1
  cases h with
  | nop => exact hinv
  | ldkey => simp [ControlInv, hi, h0]
  | ldblk => simp [ControlInv, hi, h0]
  | start _ hk hb => simp [ControlInv, h0, hk, hb]
  | unloaded => simp [ControlInv, hi, h0]
  | reserved => simp [ControlInv, hi, h0]

theorem edge_keeps_controlInv {p : PortIn} {s t : State} (hinv : ControlInv s) (h : edge p s = .next t) :
    ControlInv t := by
  rcases edge_results h with ⟨_, rfl⟩ | ⟨_, hi, hc⟩ | ⟨_, hb, hm⟩
  · simp [ControlInv]
  · exact hc.controlInv hi hinv
  · exact hm.controlInv hb hinv

/-- Taking a sample writes the model's own fields only (logs 1, 2). -/
theorem takeSample_eq (s : State) : ∃ (host : List PortIn) (draws : Nat),
    takeSample s = { s with host := host, draws := draws } := by
  cases hh : s.host with
  | nil => exact ⟨[], s.draws + 1, by rw [takeSample_nil hh, ← hh]⟩
  | cons p rest => exact ⟨rest, s.draws, takeSample_cons hh⟩

/-- Settles O55: each kind of edge keeps the control invariant, and taking the sample does not touch it. -/
theorem everyStepKeepsTheControlInv : Obligations.EveryStepKeepsTheControlInv := by
  intro s t hinv h
  obtain ⟨host, draws, hs⟩ := takeSample_eq s
  rw [step_eq, hs] at h
  exact edge_keeps_controlInv (s := { s with host := host, draws := draws }) hinv h

end Sys2Proof.Machine
end

section
/-! PROOFS. The loop invariants of R171 and the full invariant: each micro-operation computes the next stage of
`encryptBlock`. -/

namespace Sys2Proof.Machine
open Sys2Proof.Safety

/-- KSROT writes one entry of SK. -/
theorem keyRound_sk_of_ne {s : State} {i j : Fin 16} (h : j ≠ i) : (keyRound i s).sk[j.val] = s.sk[j.val] := by
  have hne : i.val ≠ j.val := fun e => h (Fin.ext e.symm)
  simp [keyRound, Vector.getElem_set_ne _ _ hne]

/-- KSROT(i+1) computes C[i+1], D[i+1] and K[i+1], and keeps the subkeys already there (R114, R187). -/
theorem keyRound_progress {s : State} {i : Fin 16} (hcd : (s.c, s.d) = keyHalves s.key i.val)
    (hsk : ∀ j : Fin 16, j.val < i.val → s.sk[j.val] = (deriveSubkeys s.key)[j.val]) :
    ((keyRound i s).c, (keyRound i s).d) = keyHalves (keyRound i s).key (i.val + 1) ∧
    ∀ j : Fin 16, j.val < i.val + 1 → (keyRound i s).sk[j.val] = (deriveSubkeys (keyRound i s).key)[j.val] := by
  constructor
  · simp [keyRound, keyHalves_succ, hcd]
  · intro j hj
    by_cases hij : j = i
    · subst hij
      simp [keyRound, deriveSubkeys_getElem, keyHalves_succ, hcd]
    · rw [keyRound_sk_of_ne hij, hsk j (by omega)]
      simp [keyRound]

/-- ROUND(i+1) computes L[i+1] and R[i+1] and only reads SK (R170, R189). -/
theorem dataRound_progress {s : State} {i : Fin 16} (hsk : s.sk = deriveSubkeys s.key)
    (hlr : (s.l, s.r) = dataHalves s.din s.key i.val) :
    (dataRound i s).sk = deriveSubkeys (dataRound i s).key ∧
    ((dataRound i s).l, (dataRound i s).r) = dataHalves (dataRound i s).din (dataRound i s).key (i.val + 1) := by
  simp [dataRound, readSubkey, dataHalves_succ _ _ _ i.isLt, hlr, hsk]

/-- Sixteen subkeys, one by one. -/
theorem subkeys_ext {s : State} (h : ∀ j : Fin 16, s.sk[j.val] = (deriveSubkeys s.key)[j.val]) :
    s.sk = deriveSubkeys s.key :=
  Vector.ext fun j hj => h ⟨j, hj⟩

/-- Each micro-operation keeps the loop invariants of R171: the next stage is computed, and the last round ends its phase. -/
theorem MicroResult.progressInv {s t : State} (h : MicroResult s t) (hinv : ProgressInv s) : ProgressInv t := by
  have hcontrol := h.control
  cases h with
  | kspc1 hp => simp [ProgressInv, keyHalves_zero]
  | ksrot hp i hi =>
    simp only [ProgressInv, hp, hi, Nat.add_sub_cancel] at hinv
    obtain ⟨hcd, hsk⟩ := keyRound_progress hinv.1 fun j hj => hinv.2 j (by omega)
    rw [hp] at hcontrol
    by_cases hlt : s.rnd.val < 16
    · obtain ⟨htp, htr⟩ := nextRound_of_lt hcontrol hlt
      simp only [ProgressInv, htp, htr, hi, Nat.add_sub_cancel]
      exact ⟨hcd, fun j hj => hsk j (by omega)⟩
    · obtain ⟨htp, -⟩ := nextRound_of_eq hcontrol (by omega)
      simp only [ProgressInv, htp]
      exact subkeys_ext fun j => hsk j (by omega)
  | iperm hp =>
    simp only [ProgressInv, hp] at hinv
    simp [ProgressInv, dataHalves_zero, hinv]
  | round hp i hi =>
    simp only [ProgressInv, hp, hi, Nat.add_sub_cancel] at hinv
    obtain ⟨hsk, hlr⟩ := dataRound_progress hinv.1 hinv.2
    rw [hp] at hcontrol
    by_cases hlt : s.rnd.val < 16
    · obtain ⟨htp, htr⟩ := nextRound_of_lt hcontrol hlt
      simp only [ProgressInv, htp, htr, hi, Nat.add_sub_cancel]
      exact ⟨hsk, hlr⟩
    · have hlast : i.val + 1 = 16 := by omega
      obtain ⟨htp, -⟩ := nextRound_of_eq hcontrol (hi.trans hlast)
      simp only [ProgressInv, htp]
      exact ⟨hsk, hlast ▸ hlr⟩
  | fperm hp => simp [ProgressInv]

/-- In IDLE there is no operation in progress, and START begins one with nothing computed yet. -/
theorem CommandResult.progressInv {p : PortIn} {s t : State} (h : CommandResult p s t) (hi : s.phase = .idle) :
    ProgressInv t := by
  obtain ⟨-, hp⟩ := h.control hi
  split at hp <;> simp only [ProgressInv, hp]

theorem edge_keeps_progressInv {p : PortIn} {s t : State} (hinv : ProgressInv s) (h : edge p s = .next t) :
    ProgressInv t := by
  rcases edge_results h with ⟨_, rfl⟩ | ⟨_, hi, hc⟩ | ⟨_, _, hm⟩
  · simp only [ProgressInv, resetEdge_phase]
  · exact hc.progressInv hi
  · exact hm.progressInv hinv

/-- Before FPERM, the final permutation of the halves is the ciphertext (R170, R190). -/
theorem finalBlock_of_progressInv {s : State} (hp : s.phase = .fperm) (hinv : ProgressInv s) :
    finalBlock (s.l, s.r) = encryptBlock s.din s.key := by
  simp only [ProgressInv, hp] at hinv
  rw [hinv.2, encryptBlock_eq]

theorem MicroResult.eq_of_fperm {s t : State} (h : MicroResult s t) (hp : s.phase = .fperm) :
    t = { s with dout := finalBlock (s.l, s.r), done := true, phase := .idle } := by
  cases h with
  | fperm => rfl
  | kspc1 hp' => simp [hp'] at hp
  | ksrot hp' => simp [hp'] at hp
  | iperm hp' => simp [hp'] at hp
  | round hp' => simp [hp'] at hp

/-- While busy DONE is 0, so only FPERM can end with DONE = 1, and it writes the ciphertext. -/
theorem MicroResult.doneInv {s t : State} (h : MicroResult s t) (hb : s.phase ≠ .idle) (hcontrol : ControlInv s)
    (hprogress : ProgressInv s) : DoneInv t := by
  intro hd
  obtain ⟨hk, hv, hd0⟩ := hcontrol.2 hb
  obtain ⟨-, -, hdone⟩ := h.flags
  by_cases hp : s.phase = .fperm
  · rw [h.eq_of_fperm hp]
    exact ⟨finalBlock_of_progressInv hp hprogress, rfl, hk, hv⟩
  · simp [hdone, hp, hd0] at hd

/-- In IDLE a command leaves KEY, DIN and DOUT alone or clears DONE. -/
theorem CommandResult.doneInv {p : PortIn} {s t : State} (h : CommandResult p s t) (hinv : DoneInv s) : DoneInv t := by
  cases h with
  | nop => exact hinv
  | ldkey => simp [DoneInv]
  | ldblk => simp [DoneInv]
  | start => simp [DoneInv]
  | unloaded => exact hinv
  | reserved => exact hinv

theorem edge_keeps_engineInv {p : PortIn} {s t : State} (hinv : EngineInv s) (h : edge p s = .next t) :
    EngineInv t := by
  obtain ⟨hcontrol, hdone, hprogress⟩ := hinv
  refine ⟨edge_keeps_controlInv hcontrol h, ?_, edge_keeps_progressInv hprogress h⟩
  rcases edge_results h with ⟨_, rfl⟩ | ⟨_, _, hc⟩ | ⟨_, hb, hm⟩
  · simp [DoneInv]
  · exact hc.doneInv hdone
  · exact hm.doneInv hb hcontrol hprogress

/-- Settles O56: each kind of edge keeps the full invariant, and taking the sample does not touch it. -/
theorem everyStepKeepsTheEngineInv : Obligations.EveryStepKeepsTheEngineInv := by
  intro s t hinv h
  obtain ⟨host, draws, hs⟩ := takeSample_eq s
  rw [step_eq, hs] at h
  exact edge_keeps_engineInv (s := { s with host := host, draws := draws }) hinv h

end Sys2Proof.Machine
end

section
/-! PROOFS. The fourteen registers along the edges: who writes each (R10), DONE (R19) and ERR (R22). -/

namespace Sys2Proof.Machine
open Sys2Proof.Safety

/-- What no micro-operation writes (R10): the operands, ERR and the model's own fields. -/
theorem MicroResult.frame {s t : State} (h : MicroResult s t) :
    t.key = s.key ∧ t.din = s.din ∧ t.err = s.err ∧ t.host = s.host ∧ t.fnOut = s.fnOut := by
  cases h with
  | kspc1 => simp
  | ksrot => simp [keyRound]
  | iperm => simp
  | round => simp [dataRound]
  | fperm => simp

/-- The phases whose micro-operation writes a data register or RND (R10). -/
theorem MicroResult.writers {s t : State} (h : MicroResult s t) :
    (t.c = s.c ∧ t.d = s.d ∨ s.phase = .kspc1 ∨ s.phase = .ksrot) ∧
    (t.sk = s.sk ∨ s.phase = .ksrot ∧ ∀ j : Fin 16, j.val + 1 ≠ s.rnd.val → t.sk[j.val] = s.sk[j.val]) ∧
    (t.l = s.l ∧ t.r = s.r ∨ s.phase = .iperm ∨ s.phase = .round) ∧
    (t.dout = s.dout ∨ s.phase = .fperm) ∧
    (t.rnd = s.rnd ∨ s.phase = .kspc1 ∨ s.phase = .ksrot ∨ s.phase = .iperm ∨ s.phase = .round) := by
  cases h with
  | kspc1 hp => simp [hp]
  | ksrot hp i hi =>
    have hsk (j : Fin 16) (hj : j.val + 1 ≠ s.rnd.val) : (keyRound i s).sk[j.val] = s.sk[j.val] :=
      keyRound_sk_of_ne fun e => hj (e ▸ hi.symm)
    exact ⟨by simp [hp], .inr ⟨hp, hsk⟩, by simp [keyRound], by simp [keyRound], by simp [hp]⟩
  | iperm hp => simp [hp]
  | round hp => simp [hp, dataRound]
  | fperm hp => simp [hp]

/-- DONE after an edge in IDLE: a load or an accepted START clears it. -/
theorem CommandResult.done {p : PortIn} {s t : State} (h : CommandResult p s t) :
    t.done =
      if p.cmd = 0b001#3 ∨ p.cmd = 0b010#3 ∨ p.cmd = 0b011#3 ∧ s.kv = true ∧ s.bv = true then false else s.done := by
  cases h with
  | nop hc => simp [hc]
  | ldkey hc => simp [hc]
  | ldblk hc => simp [hc]
  | start hc hk hb => simp [hc, hk, hb]
  | unloaded hc hl => exact (if_neg (by simpa [hc] using hl)).symm
  | reserved hc => simp [reserved_ne hc]

/-- Settles O51: in IDLE by the command; while busy FPERM alone sets DONE. -/
theorem doneIsSetAndClearedAsStated : Obligations.DoneIsSetAndClearedAsStated := by
  intro p s t hr h
  by_cases hi : s.phase = .idle
  · simpa only [hi, true_and, reduceCtorEq, if_false] using ((edge_idle_iff hr hi).mp h).done
  · obtain ⟨-, -, hdone⟩ := ((edge_busy_iff hr hi).mp h).flags
    simp only [hi, false_and, if_false]
    exact hdone

/-- Only a command other than NOP sets an ERR bit while busy (R181, R185). -/
theorem busyFaultBit_cases (p : PortIn) :
    busyFaultBit p = 0b000#3 ∨ p.cmd.getLsbD 2 = true ∨ p.cmd = 0b011#3 ∨ p.cmd = 0b001#3 ∨ p.cmd = 0b010#3 := by
  rcases cmd_cases p.cmd with hc | hc | hc | hc | hc
  · exact .inl (by simp [busyFaultBit, hc])
  all_goals simp [hc]

/-- Settles O50: in IDLE a command writes its own registers; while busy the micro-operation writes those of its phase, and
the command at most ERR. -/
theorem registersChangeOnlyByTheirWriters : Obligations.RegistersChangeOnlyByTheirWriters := by
  intro p s t hr h
  by_cases hi : s.phase = .idle
  · cases (edge_idle_iff hr hi).mp h with
    | nop hc => simp [hi, hc]
    | ldkey hc => simp [hi, hc]
    | ldblk hc => simp [hi, hc]
    | start hc => simp [hi, hc]
    | unloaded hc => simp [hi, hc]
    | reserved hc => simp [hi, hc, reserved_ne hc]
  · have hm := (edge_busy_iff hr hi).mp h
    obtain ⟨hkey, hdin, herr, -, hfn⟩ := hm.frame
    obtain ⟨hkv, hbv, hdone⟩ := hm.flags
    obtain ⟨hcd, hsk, hlr, hdout, hrnd⟩ := hm.writers
    refine ⟨.inl hkey, .inl hdin, hcd, hsk, hlr, hdout, by simpa [hi] using hkv, by simpa [hi] using hbv,
      .inr (.inl hi), hrnd, ?_, ?_, hfn⟩
    · by_cases hf : s.phase = .fperm
      · exact .inr (.inl hf)
      · exact .inl (hdone.trans (if_neg hf))
    · rcases busyFaultBit_cases p with hz | hc | hc | hc
      · exact .inl (by simpa [hz] using herr)
      · exact .inr (.inl hc)
      · exact .inr (.inr (.inl hc))
      · exact .inr (.inr (.inr ⟨hi, hc⟩))

end Sys2Proof.Machine
end

section
/-! PROOFS. ERR (R22): what sets it, that nothing reads it, and the host that keeps R270. -/

namespace Sys2Proof.Machine
open Sys2Proof.Safety

theorem faultOf_busy {p : PortIn} {s : State} (hr : p.rst = false) (hb : s.phase ≠ .idle) :
    faultOf p s = busyFaultBit p := by
  simp [faultOf, busyFaultBit, hr, hb]

/-- In IDLE a command sets the bit of its fault, UNLOADED or ILLCMD, or none. -/
theorem CommandResult.err {p : PortIn} {s t : State} (h : CommandResult p s t) (hr : p.rst = false)
    (hi : s.phase = .idle) : t.err = s.err ||| faultOf p s := by
  cases h with
  | nop hc => simp [faultOf, hr, hc]
  | ldkey hc => simp [faultOf, hr, hi, hc]
  | ldblk hc => simp [faultOf, hr, hi, hc]
  | start hc hk hb => simp [faultOf, hr, hi, hc, hk, hb]
  | unloaded hc hl => simp [faultOf, hr, hi, hc, hl, unloadedBit, -not_and]
  | reserved hc => simp [faultOf, hr, hc, illcmdBit]

/-- ERR after an edge (R22, R241, R243). -/
theorem edge_err {p : PortIn} {s t : State} (h : edge p s = .next t) :
    t.err = if p.rst then 0b000#3 else s.err ||| faultOf p s := by
  rcases edge_results h with ⟨hr, rfl⟩ | ⟨hr, hi, hc⟩ | ⟨hr, hb, hm⟩
  · simp [hr]
  · simpa [hr] using hc.err hr hi
  · obtain ⟨-, -, herr, -⟩ := hm.frame
    simpa [hr, faultOf_busy hr hb] using herr

theorem faultOf_mem (p : PortIn) (s : State) : faultOf p s ∈ [0b000#3, 0b001#3, 0b010#3, 0b100#3] := by
  unfold faultOf
  split_ifs <;> simp

theorem busyPort_eq_true_iff (s : State) : busyPort s = true ↔ s.phase ≠ .idle := by
  unfold busyPort
  cases s.phase <;> decide

/-- A host that keeps R270 at an edge raises no fault there: H7 rules out ILLCMD, H2 BUSYCMD, H3 UNLOADED. -/
theorem faultOf_of_disciplined {a : HostAction} {s : State} (h : Disciplined a s)
    (hr : a.sample.rst = false) : faultOf a.sample s = 0b000#3 := by
  have h7 := h.h7 hr
  by_cases hb : s.phase = .idle
  · have h3 : ¬ (a.sample.cmd = 0b011#3 ∧ ¬ (s.kv = true ∧ s.bv = true)) := fun hc => hc.2 (h.h3 hr hc.1)
    simp only [faultOf, hr, h7, hb, h3, ne_eq, not_true_eq_false, Bool.false_eq_true, if_false, ite_self]
  · have h2 := h.h2 hr ((busyPort_eq_true_iff s).mpr hb)
    simp [faultOf, hr, h2]

theorem disciplined_err {a : HostAction} {s t : State} (h : Disciplined a s) (he : edge a.sample s = .next t) :
    t.err = if a.sample.rst then 0b000#3 else s.err := by
  cases hr : a.sample.rst with
  | true => simp [edge_err he, hr]
  | false => simp [edge_err he, hr, faultOf_of_disciplined h hr]

theorem disciplinedRun_err {actions : List HostAction} {taken : Bool} {s t : State} (h0 : s.err = 0b000#3)
    (h : DisciplinedRun taken actions s) (hrun : runEdges (actions.map HostAction.sample) s = .next t) :
    t.err = 0b000#3 := by
  induction actions generalizing taken s with
  | nil =>
    cases hrun
    exact h0
  | cons a rest ih =>
    obtain ⟨hd, -, hrest⟩ := h
    obtain ⟨u, hu, hrun⟩ := runEdges_cons_next hrun
    have hu0 : u.err = 0b000#3 := by simp [disciplined_err hd hu, h0]
    exact ih hu0 (hrest u hu) hrun

/-- Settles O48: `edge_err` at every edge, and along a disciplined run the reset clears ERR and no edge sets a bit. -/
theorem errAccumulatesExactlyTheFaults : Obligations.ErrAccumulatesExactlyTheFaults := by
  constructor
  · intro p s t h
    refine ⟨fun hr => by simp [edge_err h, hr], fun hr => by simp [edge_err h, hr], faultOf_mem p s, ?_⟩
    rintro a rfl hd
    exact disciplined_err hd h
  · intro actions s t hne hd hrun
    cases actions with
    | nil => exact absurd rfl hne
    | cons first rest =>
      obtain ⟨-, hr, hrest⟩ := hd
      obtain ⟨u, hu, hrun⟩ := runEdges_cons_next hrun
      have hu0 : u.err = 0b000#3 := by simp [edge_err hu, hr]
      exact disciplinedRun_err hu0 (hrest u hu) hrun

/-- A command in IDLE does not read ERR. -/
theorem CommandResult.of_other_err {p : PortIn} {s t : State} (h : CommandResult p s t) (e : BitVec 3) :
    ∃ e' : BitVec 3, CommandResult p { s with err := e } { t with err := e' } := by
  cases h with
  | nop hc => exact ⟨_, .nop hc⟩
  | ldkey hc => exact ⟨_, .ldkey hc⟩
  | ldblk hc => exact ⟨_, .ldblk hc⟩
  | start hc hk hb => exact ⟨_, .start hc hk hb⟩
  | unloaded hc hl => exact ⟨_, .unloaded hc hl⟩
  | reserved hc => exact ⟨_, .reserved hc⟩

theorem advanceRound_with_err (after : Phase) (s : State) (e : BitVec 3) :
    advanceRound after { s with err := e } = { advanceRound after s with err := e } := by
  unfold advanceRound
  split <;> rfl

theorem keyRound_with_err (i : Fin 16) (s : State) (e : BitVec 3) :
    keyRound i { s with err := e } = { keyRound i s with err := e } :=
  advanceRound_with_err .iperm
    (writeSubkey i (compressKeyHalves (rotateKeyHalves (i.val + 1) (s.c, s.d)))
      (setKeyHalves (rotateKeyHalves (i.val + 1) (s.c, s.d)) s)) e

theorem dataRound_with_err (i : Fin 16) (s : State) (e : BitVec 3) :
    dataRound i { s with err := e } = { dataRound i s with err := e } :=
  advanceRound_with_err .fperm (setDataHalves (feistelRound (s.l, s.r) (readSubkey i s)) s) e

/-- A micro-operation neither reads nor writes ERR. -/
theorem MicroResult.of_other_err {s t : State} (h : MicroResult s t) (e : BitVec 3) :
    MicroResult { s with err := e } { t with err := e } := by
  cases h with
  | kspc1 hp => exact .kspc1 hp
  | ksrot hp i hi => exact keyRound_with_err i s e ▸ .ksrot (s := { s with err := e }) hp i hi
  | iperm hp => exact .iperm hp
  | round hp i hi => exact dataRound_with_err i s e ▸ .round (s := { s with err := e }) hp i hi
  | fperm hp => exact .fperm hp

/-- Settles O49: the reset rule, the commands in IDLE and the micro-operations do the same whatever ERR is. -/
theorem noRuleReadsErr : Obligations.NoRuleReadsErr := by
  intro p s t e h
  rcases edge_results h with ⟨hr, rfl⟩ | ⟨hr, hi, hc⟩ | ⟨hr, hb, hm⟩
  · exact ⟨0b000#3, edge_reset _ hr⟩
  · obtain ⟨e', hc'⟩ := hc.of_other_err e
    exact ⟨e', (edge_idle_iff (s := { s with err := e }) hr hi).mpr hc'⟩
  · exact ⟨e ||| busyFaultBit p,
      (edge_busy_iff (s := { s with err := e }) hr hb).mpr (hm.of_other_err (e ||| busyFaultBit p))⟩

end Sys2Proof.Machine
end

section
/-! PROOFS. One operation along its timeline (R171, R191): 36 steps from an accepted START. -/

namespace Sys2Proof.Machine
open Sys2Proof.Safety

/-- While busy every phase has a micro-operation; KSROT and ROUND need RND to name a round (R175). -/
theorem microResult_exists {s : State} (hb : s.phase ≠ .idle)
    (h : s.phase = .ksrot ∨ s.phase = .round → 1 ≤ s.rnd.val) : ∃ t : State, MicroResult s t := by
  have round_of (hp : s.phase = .ksrot ∨ s.phase = .round) : ∃ i : Fin 16, s.rnd.val = i.val + 1 := by
    have := h hp
    exact ⟨⟨s.rnd.val - 1, by omega⟩, (Nat.sub_add_cancel this).symm⟩
  cases hp : s.phase with
  | idle => exact absurd hp hb
  | kspc1 => exact ⟨_, .kspc1 hp⟩
  | ksrot =>
    obtain ⟨i, hi⟩ := round_of (.inl hp)
    exact ⟨_, .ksrot hp i hi⟩
  | iperm => exact ⟨_, .iperm hp⟩
  | round =>
    obtain ⟨i, hi⟩ := round_of (.inr hp)
    exact ⟨_, .round hp i hi⟩
  | fperm => exact ⟨_, .fperm hp⟩

/-- The state after an accepted START on `key` and `block` and `k` further edges without reset. RND after START itself is
what it was before. -/
structure OperationAt (key block : BitVec 64) (k : Nat) (s : State) : Prop where
  phase_eq : s.phase = (timeline k).1
  rnd_eq : 1 ≤ k → s.rnd = (timeline k).2
  key_eq : s.key = key
  din_eq : s.din = block
  loaded : s.kv = true ∧ s.bv = true
  done_eq : s.done = decide (k = 35)
  progress : ProgressInv s
  result : k = 35 → s.dout = encryptBlock block key

theorem OperationAt.with_host {key block : BitVec 64} {k : Nat} {s : State} (h : OperationAt key block k s)
    (host : List PortIn) : OperationAt key block k { s with host := host } :=
  ⟨h.phase_eq, h.rnd_eq, h.key_eq, h.din_eq, h.loaded, h.done_eq, h.progress, h.result⟩

theorem timeline_succ : ∀ k < 35, nextControl (timeline k).1 (timeline k).2 = timeline (k + 1) := by decide

theorem timeline_busy : ∀ k < 35, (timeline k).1 ≠ .idle := by decide

theorem timeline_fperm_iff : ∀ k < 35, (timeline k).1 = .fperm ↔ k = 34 := by decide

theorem timeline_rnd_pos :
    ∀ k < 35, (timeline k).1 = .ksrot ∨ (timeline k).1 = .round → 1 ≤ k ∧ 1 ≤ (timeline k).2.val := by decide

/-- The micro-operation of KSPC1 sets RND, so what it was before does not matter. -/
theorem OperationAt.nextControl_eq {key block : BitVec 64} {k : Nat} {s : State} (h : OperationAt key block k s)
    (hk : k < 35) : nextControl s.phase s.rnd = timeline (k + 1) := by
  rcases Nat.eq_zero_or_pos k with rfl | hpos
  · rw [h.phase_eq]; rfl
  · rw [h.phase_eq, h.rnd_eq hpos, timeline_succ k hk]

/-- An edge without reset goes on along the timeline, whatever command is presented. -/
theorem OperationAt.next_edge {key block : BitVec 64} {k : Nat} {s : State} {p : PortIn} (h : OperationAt key block k s)
    (hk : k < 35) (hr : p.rst = false) :
    ∃ t : State, edge p s = .next t ∧ t.host = s.host ∧ OperationAt key block (k + 1) t := by
  have hb : s.phase ≠ .idle := h.phase_eq ▸ timeline_busy k hk
  have hround (hp : s.phase = .ksrot ∨ s.phase = .round) : 1 ≤ s.rnd.val := by
    obtain ⟨h1, hrnd⟩ := timeline_rnd_pos k hk (h.phase_eq ▸ hp)
    rwa [h.rnd_eq h1]
  obtain ⟨t, hm⟩ := microResult_exists (s := raiseFault (busyFaultBit p) s) hb hround
  have hcontrol : (t.phase, t.rnd) = timeline (k + 1) := hm.control.trans (h.nextControl_eq hk)
  have hfperm : s.phase = .fperm ↔ k = 34 := h.phase_eq ▸ timeline_fperm_iff k hk
  obtain ⟨hkey, hdin, -, hhost, -⟩ := hm.frame
  obtain ⟨hkv, hbv, hdone⟩ := hm.flags
  refine ⟨t, (edge_busy_iff hr hb).mpr hm, hhost, ?_⟩
  exact
    { phase_eq := congrArg Prod.fst hcontrol
      rnd_eq := fun _ => congrArg Prod.snd hcontrol
      key_eq := hkey.trans h.key_eq
      din_eq := hdin.trans h.din_eq
      loaded := ⟨hkv.trans h.loaded.1, hbv.trans h.loaded.2⟩
      done_eq := by
        have hk35 : k ≠ 35 := by omega
        simp [hdone, h.done_eq, hfperm, hk35]
      progress := hm.progressInv h.progress
      result := fun he => by
        have hp := hfperm.mpr (by omega)
        rw [hm.eq_of_fperm hp, ← h.key_eq, ← h.din_eq]
        exact finalBlock_of_progressInv hp h.progress }

theorem step_cons {s : State} {p : PortIn} {rest : List PortIn} (h : s.host = p :: rest) :
    step s = edge p { s with host := rest } := by
  rw [step_eq, samplePorts_cons h, takeSample_cons h]

theorem run_of_step {n : Nat} {s t : State} (h : step s = .next t) :
    Host.Core.run Sys2Proof.core (n + 1) s = Host.Core.run Sys2Proof.core n t := by
  have hstep : Sys2Proof.core.step s = .next t := h
  simp only [Host.Core.run, hstep]

/-- Steps on samples without reset go on along the timeline. -/
theorem OperationAt.run {key block : BitVec 64} {k : Nat} {s : State} {ps rest : List PortIn}
    (h : OperationAt key block k s) (hhost : s.host = ps ++ rest) (hk : k + ps.length ≤ 35)
    (hrst : ∀ q ∈ ps, q.rst = false) :
    ∃ t : State, Host.Core.run Sys2Proof.core ps.length s = .next t ∧ t.host = rest ∧
      OperationAt key block (k + ps.length) t := by
  induction ps generalizing k s with
  | nil => exact ⟨s, rfl, hhost, h⟩
  | cons p ps ih =>
    rw [List.length_cons] at hk ⊢
    obtain ⟨u, hu, huhost, hopu⟩ := (h.with_host (ps ++ rest)).next_edge (p := p) (by omega) (hrst p List.mem_cons_self)
    obtain ⟨t, ht, hthost, hopt⟩ := ih hopu huhost (by omega) fun q hq => hrst q (List.mem_cons_of_mem p hq)
    refine ⟨t, ?_, hthost, by rwa [Nat.add_right_comm] at hopt⟩
    rw [run_of_step ((step_cons hhost).trans hu), ht]

/-- A step on START in IDLE with both operands loaded begins the operation (R184). -/
theorem step_start {s : State} {p : PortIn} {rest : List PortIn} (hi : s.phase = .idle) (hk : s.kv = true)
    (hb : s.bv = true) (hhost : s.host = p :: rest) (hr : p.rst = false) (hc : p.cmd = 0b011#3) :
    ∃ t : State, step s = .next t ∧ t.host = rest ∧ OperationAt s.key s.din 0 t := by
  rw [step_cons hhost]
  refine ⟨_, (edge_idle_iff (s := { s with host := rest }) hr hi).mpr (.start hc hk hb), rfl, ?_⟩
  exact ⟨rfl, fun h => absurd h (by decide), rfl, rfl, ⟨hk, hb⟩, rfl, trivial, fun h => absurd h (by decide)⟩

/-- From an accepted START, `k` further samples without reset lead to the k-th place of the timeline (R191). -/
theorem run_operation {s : State} {p : PortIn} {ps rest : List PortIn} (hi : s.phase = .idle) (hk : s.kv = true)
    (hb : s.bv = true) (hhost : s.host = p :: (ps ++ rest)) (hr : p.rst = false) (hc : p.cmd = 0b011#3)
    (hlen : ps.length ≤ 35) (hrst : ∀ q ∈ ps, q.rst = false) :
    ∃ t : State, Host.Core.run Sys2Proof.core (ps.length + 1) s = .next t ∧ t.host = rest ∧
      OperationAt s.key s.din ps.length t := by
  obtain ⟨u, hu, huhost, hop⟩ := step_start hi hk hb hhost hr hc
  obtain ⟨t, ht, hthost, hopt⟩ := hop.run huhost (by omega) hrst
  exact ⟨t, (run_of_step hu).trans ht, hthost, by rwa [Nat.zero_add] at hopt⟩

/-- Settles O60: both runs end at the last place of the timeline, where DOUT is `encryptBlock` of DIN and KEY at START. -/
theorem resultDependsOnKeyAndBlockAlone : Obligations.ResultDependsOnKeyAndBlockAlone := by
  intro s s' p p' ps ps' rest rest' hkey hdin hi hi' hk hb hk' hb' hhost hhost' hr hc hr' hc' hlen hlen' hrst hrst'
  obtain ⟨t, ht, -, hop⟩ := run_operation hi hk hb hhost hr hc hlen.le hrst
  obtain ⟨t', ht', -, hop'⟩ := run_operation hi' hk' hb' hhost' hr' hc' hlen'.le hrst'
  rw [hlen] at ht hop
  rw [hlen'] at ht' hop'
  refine ⟨t, t', ht, ht', ?_, hop.done_eq, hop'.done_eq⟩
  rw [hop.result rfl, hop'.result rfl, hkey, hdin]

end Sys2Proof.Machine
end

section
/-! PROOFS. Single facts about the state: where a round micro-operation stops, the ports (R23, R24, R64), the reset state
(R29). -/

namespace Sys2Proof.Machine
open Sys2Proof.Safety

/-- A round micro-operation stops exactly where RND names no round (log 10). -/
theorem inRound_eq_fault_iff (body : Fin 16 → State → State) (s : State) :
    inRound body s = .fault .rndOutOfRange ↔ s.rnd = 0 := by
  rcases inRound_cases body s with ⟨i, hi, h⟩ | ⟨hz, h⟩
  · have hne : s.rnd ≠ 0 := fun hz => by simp [hz] at hi
    simp [h, hne]
  · simp [h, hz]

/-- Settles O16: KSROT and ROUND are round micro-operations. -/
theorem roundMicroOpsStopOutsideTheRounds : Obligations.RoundMicroOpsStopOutsideTheRounds :=
  fun s => ⟨inRound_eq_fault_iff keyRound s, inRound_eq_fault_iff dataRound s⟩

/-- The fields of a STATUS bundle (R24). -/
theorem status_fields : ∀ (err : BitVec 3) (done busy : Bool),
    (err ++ BitVec.ofBool done ++ BitVec.ofBool busy).getLsbD 0 = busy ∧
    (err ++ BitVec.ofBool done ++ BitVec.ofBool busy).getLsbD 1 = done ∧
    (err ++ BitVec.ofBool done ++ BitVec.ofBool busy).extractLsb' 2 3 = err := by decide

/-- Settles O46: each port is its register, and STATUS is their bundle. -/
theorem portsShowTheRegisters : Obligations.PortsShowTheRegisters :=
  fun s => ⟨rfl, busyPort_eq_true_iff s, rfl, rfl, status_fields (errPort s) (donePort s) (busyPort s)⟩

/-- Settles O54: in the reset state PHASE = IDLE, RND = 0 and DONE = 0 meet the invariants whatever the data are. -/
theorem resetStateMeetsTheInvariants : Obligations.ResetStateMeetsTheInvariants := by
  have hcontrol : ControlInv State.reset := by decide
  have hdone : DoneInv State.reset := fun h => absurd h (by decide)
  exact ⟨rfl, rfl, rfl, rfl, rfl, rfl, hcontrol, hcontrol, hdone, trivial⟩

end Sys2Proof.Machine
end

section
/-! PROOFS. Decoding and encoding: what each kind of code word decodes to, and the round trips (R42, R62, R66, R70, R77). -/

namespace Sys2Proof

/-! ## Command samples -/

/-- The codes with `cmd[2] = 1` are those of the reserved row (R66). -/
theorem exists_reserved_code : ∀ cmd : BitVec 3, cmd.getLsbD 2 = true → ∃ n : BitVec 2, cmd = 1#1 ++ n := by decide

theorem reserved_code : ∀ n : BitVec 2,
    (1#1 ++ n : BitVec 3).getLsbD 2 = true ∧ (1#1 ++ n : BitVec 3).extractLsb' 0 2 = n := by decide

theorem decode_nop (din : BitVec 64) : decode (.command (commandWord 0b000#3 din)) = .ok .nop :=
  decodeCommand_word _ din

theorem decode_ldkey (key : BitVec 64) : decode (.command (commandWord 0b001#3 key)) = .ok (.ldkey key) :=
  decodeCommand_word _ key

theorem decode_ldblk (block : BitVec 64) : decode (.command (commandWord 0b010#3 block)) = .ok (.ldblk block) :=
  decodeCommand_word _ block

theorem decode_start (din : BitVec 64) : decode (.command (commandWord 0b011#3 din)) = .ok .start :=
  decodeCommand_word _ din

theorem decode_rsvd (n : BitVec 2) (din : BitVec 64) :
    decode (.command (commandWord (1#1 ++ n) din)) = .ok (.rsvd n) := by
  obtain ⟨hmsb, hn⟩ := reserved_code n
  simp [decodeCommand_word, Machine.reserved_ne hmsb, hn]

/-- The encoding of the decoded command keeps `cmd`, and `din` where it is an operand (R62). -/
theorem encode_of_decode_commandWord {cmd : BitVec 3} {din : BitVec 64} {i : Instr}
    (h : decode (.command (commandWord cmd din)) = .ok i) :
    ∃ din' : BitVec 64, encode i = some (.command (commandWord cmd din')) ∧
      (cmd = 0b001#3 ∨ cmd = 0b010#3 → din' = din) := by
  rcases cmd_cases cmd with rfl | rfl | rfl | rfl | hmsb
  · obtain rfl := Except.ok.inj ((decode_nop din).symm.trans h)
    exact ⟨0#64, rfl, fun hload => absurd hload (by decide)⟩
  · obtain rfl := Except.ok.inj ((decode_ldkey din).symm.trans h)
    exact ⟨din, rfl, fun _ => rfl⟩
  · obtain rfl := Except.ok.inj ((decode_ldblk din).symm.trans h)
    exact ⟨din, rfl, fun _ => rfl⟩
  · obtain rfl := Except.ok.inj ((decode_start din).symm.trans h)
    exact ⟨0#64, rfl, fun hload => absurd hload (by decide)⟩
  · obtain ⟨_, h1, h2, _⟩ := Machine.reserved_ne hmsb
    obtain ⟨n, rfl⟩ := exists_reserved_code cmd hmsb
    obtain rfl := Except.ok.inj ((decode_rsvd n din).symm.trans h)
    exact ⟨0#64, rfl, fun hload => absurd hload (not_or.mpr ⟨h1, h2⟩)⟩

/-! ## PHASE codes -/

/-- A PHASE code names the micro-operation it decodes to (R70). -/
theorem encode_of_decode_phase {p : BitVec 3} {i : Instr} (h : decode (.phase p) = .ok i) :
    encode i = some (.phase p) := by
  simp only [decode, decodePhase] at h
  split_ifs at h
  iterate 5
    subst p
    cases h
    rfl

/-! ## LUT addresses -/

/-- A LUT address is its three fields (R42). -/
theorem lutAddress_fields (a : BitVec 9) : lutAddress (lutBox a) (lutRow a) (lutCol a) = a := by
  apply BitVec.eq_of_getLsbD_eq
  intro j hj
  rw [getLsbD_lutAddress]
  split_ifs with hcol hrow
  · simp [lutCol, hcol]
  · have hj4 : 4 + (j - 4) = j := by omega
    simp [lutRow, hrow, hj4]
  · have hj6 : 6 + (j - 4 - 2) = j := by omega
    have hbox : j - 4 - 2 < 3 := by omega
    simp [lutBox, hbox, hj6]

theorem decode_lutAddress (box : BitVec 3) (row : BitVec 2) (col : BitVec 4) :
    decode (.lut (lutAddress box row col)) = .ok (lutInstr box row col) := by
  simp [decode, decodeLut]

/-- The look-up in a box is encoded by the box number above its operands (R42). -/
theorem encode_lutInstr (box : BitVec 3) (row : BitVec 2) (col : BitVec 4) :
    encode (lutInstr box row col) = some (.lut (lutAddress box row col)) := by
  unfold lutInstr
  split_ifs with h0 h1 h2 h3 h4 h5 h6
  iterate 7 subst box; rfl
  have h7 : box = 7#3 := by bv_omega
  subst h7
  rfl

/-! ## The statements -/

/-- Settles O2, by cases on the instruction: a code decodes to the row that has it, and the FUNCTION rows have no bits. -/
theorem decodeOfEncodeIsTheInstruction : Obligations.DecodeOfEncodeIsTheInstruction := by
  intro i w h
  cases i with
  | nop => obtain rfl := Option.some.inj h; exact decode_nop _
  | ldkey key => obtain rfl := Option.some.inj h; exact decode_ldkey key
  | ldblk block => obtain rfl := Option.some.inj h; exact decode_ldblk block
  | start => obtain rfl := Option.some.inj h; exact decode_start _
  | rsvd n => obtain rfl := Option.some.inj h; exact decode_rsvd n _
  | kspc1 | ksrot | iperm | round | fperm => obtain rfl := Option.some.inj h; rfl
  | s1 row col | s2 row col | s3 row col | s4 row col | s5 row col | s6 row col | s7 row col | s8 row col =>
    obtain rfl := Option.some.inj h
    exact decode_lutAddress _ row col
  | permute | rotl28 | deriveSubkeys | substitute | roundFunction | encryptBlock | bytesToWord | encrypt8 | encrypt16
  | encryptBadlength | mirror8 | deriveKeyFromPassword | encryptWithPassword => exact nomatch h

/-- Settles O3: PHASE codes and LUT addresses have one reading each; a command sample is its fields, and the encoder
writes the `cmd` it was read from. -/
theorem encodeOfDecodeIsTheWord : Obligations.EncodeOfDecodeIsTheWord := by
  refine ⟨fun p i => encode_of_decode_phase, fun a i h => ?_, fun w i h => ?_⟩
  · obtain rfl : decodeLut a = i := Except.ok.inj h
    rw [decodeLut, encode_lutInstr, lutAddress_fields]
  · rw [← commandWord_fields w] at h
    obtain ⟨din', hencode, hdin⟩ := encode_of_decode_commandWord h
    refine ⟨commandWord (cmdField w) din', hencode, cmdField_commandWord _ _, fun hload => ?_⟩
    rw [hdin hload, commandWord_fields]

/-- Settles O1: the decoder evaluated at each of the words. -/
theorem wordsOfTheSpecDecode : Obligations.WordsOfTheSpecDecode := by
  unfold Obligations.WordsOfTheSpecDecode
  decide

/-- Settles O4: the rows counted at each of the eight codes; a sample decodes because its code has a row. -/
theorem everyCommandCodeSelectsOneRow : Obligations.EveryCommandCodeSelectsOneRow := by
  refine ⟨by decide, fun w => ?_⟩
  rw [← commandWord_fields w]
  exact ⟨_, decodeCommand_word _ _⟩

end Sys2Proof
end

section
/-! PROOFS. The bit permuter: the source position of each output bit, when the FUNCTION row evaluates, the iterative form,
linearity, and IP with FP (R90 to R92, R99, R100). -/

namespace Sys2Proof.Machine

/-! ## The source position of an output bit -/

/-- The position in the source of output bit `j`, both counted from the least significant: `W - T[n-1-j]` (R90). -/
def PermTable.source {w n : Nat} (t : PermTable w n) (j : Nat) : Nat := w - t.entries.getD (n - 1 - j) w

theorem getLsbD_permute_source {w n : Nat} (t : PermTable w n) (v : BitVec w) {j : Nat} (h : j < n) :
    (permute t v).getLsbD j = v.getLsbD (t.source j) := by
  rw [getLsbD_permute, decide_eq_true h, Bool.true_and, PermTable.source]

/-- Entry `i` names the source of output bit `n-1-i`. -/
theorem PermTable.source_of_index {w n : Nat} (t : PermTable w n) {i : Nat} (h : i < t.entries.length) :
    t.source (n - 1 - i) = w - t.entries[i] := by
  have hi : n - 1 - (n - 1 - i) = i := by
    have hlen := t.length_eq
    omega
  simp [PermTable.source, hi, h]

/-- Every output bit has a source bit, for the entries are at least 1 and at most the width (R92). -/
theorem PermTable.source_lt {w n : Nat} (t : PermTable w n) {j : Nat} (h : j < n) : t.source j < w := by
  have hlen := t.length_eq
  have hi : n - 1 - j < t.entries.length := by omega
  have hj : n - 1 - (n - 1 - j) = j := by omega
  have hentry := t.entry_range (List.getElem_mem hi)
  have hsource := t.source_of_index hi
  rw [hj] at hsource
  omega

/-- Every output bit is its source bit. -/
@[simp] theorem getElem_permute {w n : Nat} (t : PermTable w n) (v : BitVec w) {j : Nat} (h : j < n) :
    (permute t v)[j] = v[t.source j]'(t.source_lt h) := by
  rw [← BitVec.getLsbD_eq_getElem, getLsbD_permute_source t v h, BitVec.getLsbD_eq_getElem]

/-! ## The FUNCTION row -/

theorem tableInRange_iff {w : Nat} {table : List Nat} :
    tableInRange w table = true ↔ ∀ p ∈ table, 1 ≤ p ∧ p ≤ w := by
  simp [tableInRange]

theorem exec_permute_of_inRange {w : Nat} {table : List Nat} (h : tableInRange w table = true) (v : BitVec w)
    (s : State) :
    exec (.permute w table v) s = .next (deliver (.bits table.length (permute ⟨table, rfl, h⟩ v)) s) :=
  dif_pos h

theorem exec_permute_of_not_inRange {w : Nat} {table : List Nat} (h : ¬ tableInRange w table = true) (v : BitVec w)
    (s : State) : exec (.permute w table v) s = .fault .malformedTable :=
  dif_neg h

/-- Settles O19: the delivered value is `permute` of the table, whose bit `n-1-i` has the source position of entry `i`. -/
theorem permuteSelectsTheNamedBits : Obligations.PermuteSelectsTheNamedBits := by
  intro w table v s hrange
  have hr := tableInRange_iff.mpr hrange
  refine ⟨_, exec_permute_of_inRange hr v s, fun i hi => ?_⟩
  rw [getLsbD_permute_source _ v (by omega), PermTable.source_of_index _ hi]

/-- Settles O20: the entry outside 1..W refutes the range check of the row. -/
theorem permuteStopsOnAMalformedTable : Obligations.PermuteStopsOnAMalformedTable := by
  intro w table v s ⟨p, hp, hbad⟩
  refine exec_permute_of_not_inRange (fun hr => ?_) v s
  have hentry := tableInRange_iff.mp hr p hp
  omega

/-! ## The iterative form (R91) -/

/-- Shifting left by one and OR-ing in a bit: the new bit is bit 0, every other bit is the one below it before. -/
theorem getLsbD_shiftLeft_one_or {n : Nat} (acc : BitVec n) (b : Bool) (j : Nat) :
    ((acc <<< 1) ||| (BitVec.ofBool b).setWidth n).getLsbD j =
      (decide (j < n) && if j = 0 then b else acc.getLsbD (j - 1)) := by
  cases j <;> simp

/-- Read from its end, the list of bits counts them from the least significant. -/
theorem getLsbD_ofBoolListBE_eq_reverse (bits : List Bool) (j : Nat) :
    (BitVec.ofBoolListBE bits).getLsbD j = bits.reverse.getD j false := by
  by_cases hj : j < bits.length <;> simp [hj]

/-- The bits shifted in one after the other stand in their order, the first one most significant. -/
theorem foldl_shiftLeft_or_eq_ofBoolListBE {n : Nat} (bits : List Bool) :
    bits.foldl (fun (acc : BitVec n) (b : Bool) => (acc <<< 1) ||| (BitVec.ofBool b).setWidth n) 0#n =
      (BitVec.ofBoolListBE bits).setWidth n := by
  induction bits using List.reverseRecOn with
  | nil => ext j hj; simp
  | append_singleton bits b ih =>
    rw [List.foldl_concat, ih]
    apply BitVec.eq_of_getLsbD_eq
    intro j hj
    rw [getLsbD_shiftLeft_one_or, BitVec.getLsbD_setWidth, BitVec.getLsbD_setWidth, getLsbD_ofBoolListBE_eq_reverse,
      getLsbD_ofBoolListBE_eq_reverse, List.reverse_concat]
    cases j with
    | zero => simp
    | succ j => simp [Nat.lt_of_succ_lt hj]

/-- Settles O21: the fold over the table is the fold over the selected bits. -/
theorem permuteIsTheIterativeForm : Obligations.PermuteIsTheIterativeForm := by
  intro w n table v
  rw [permute, ← foldl_shiftLeft_or_eq_ofBoolListBE, List.foldl_map]
  simp only [BitVec.getLsbD_ushiftRight, Nat.add_zero]

/-! ## Linearity (R100) -/

theorem permute_xor {w n : Nat} (t : PermTable w n) (a b : BitVec w) :
    permute t (a ^^^ b) = permute t a ^^^ permute t b := by
  ext j hj
  simp

theorem permute_zero {w n : Nat} (t : PermTable w n) : permute t 0#w = 0#n := by
  ext j hj
  simp

theorem permute_allOnes {w n : Nat} (t : PermTable w n) : permute t (BitVec.allOnes w) = BitVec.allOnes n := by
  ext j hj
  simp

/-- Settles O22, bit by bit: an output bit is one source bit, and it always has one, which all-ones needs. -/
theorem permuteIsLinear : Obligations.PermuteIsLinear :=
  fun _ _ t => ⟨permute_xor t, permute_zero t, permute_allOnes t⟩

/-! ## IP and FP (R99) -/

/-- Permuting by `s` and then by `t` is the identity when the source positions of `t` lead back through those of `s`. -/
theorem permute_permute_eq_self {n : Nat} {s t : PermTable n n} (h : ∀ j < n, s.source (t.source j) = j)
    (v : BitVec n) : permute t (permute s v) = v := by
  ext j hj
  simp only [getElem_permute, h j hj]

theorem source_tableIP_tableFP : ∀ j < 64, tableIP.source (tableFP.source j) = j := by decide

theorem source_tableFP_tableIP : ∀ j < 64, tableFP.source (tableIP.source j) = j := by decide

/-- Settles O23: the source positions of the two tables are inverse to each other. -/
theorem finalPermutationInvertsTheInitial : Obligations.FinalPermutationInvertsTheInitial :=
  fun v => ⟨permute_permute_eq_self source_tableIP_tableFP v, permute_permute_eq_self source_tableFP_tableIP v⟩

end Sys2Proof.Machine
end

section
/-! PROOFS. The key schedule: a rotation as a library rotation, the halves after a round by the schedule's total, and
the parity bits (R110 to R118, R216). -/

namespace Sys2Proof.Machine

/-! ## The rotation (R112) -/

theorem rotl28_eq_rotateLeft (v : BitVec 28) (n : RotAmount) : rotl28 v n = v.rotateLeft (rotBits n) := by
  cases n <;> rfl

/-- Bit `j` of a rotation by `k` comes from `k` places below, counted around the 28 bits. -/
theorem getLsbD_rotateLeft_mod (v : BitVec 28) (k : Nat) {j : Nat} (h : j < 28) :
    (v.rotateLeft k).getLsbD j = v.getLsbD ((j + 28 - k % 28) % 28) := by
  rw [BitVec.getLsbD_rotateLeft]
  by_cases hk : j < k % 28
  · have hj : (j + 28 - k % 28) % 28 = 28 - k % 28 + j := by omega
    simp [hk, hj]
  · have hj : (j + 28 - k % 28) % 28 = j - k % 28 := by omega
    simp [hk, hj, h]

theorem getLsbD_rotl28 (v : BitVec 28) (n : RotAmount) {j : Nat} (h : j < 28) :
    (rotl28 v n).getLsbD j = v.getLsbD ((j + 28 - rotBits n) % 28) := by
  have hn : rotBits n % 28 = rotBits n := by cases n <;> rfl
  rw [rotl28_eq_rotateLeft, getLsbD_rotateLeft_mod v _ h, hn]

/-- Rotations add up. -/
theorem rotl28_rotateLeft (v : BitVec 28) (k : Nat) (n : RotAmount) :
    rotl28 (v.rotateLeft k) n = v.rotateLeft (k + rotBits n) := by
  rw [rotl28_eq_rotateLeft]
  apply BitVec.eq_of_getLsbD_eq
  intro j hj
  have hsource : ((j + 28 - rotBits n % 28) % 28 + 28 - k % 28) % 28 = (j + 28 - (k + rotBits n) % 28) % 28 := by omega
  rw [getLsbD_rotateLeft_mod _ _ hj, getLsbD_rotateLeft_mod _ _ (Nat.mod_lt _ (by decide)),
    getLsbD_rotateLeft_mod _ _ hj, hsource]

/-- A rotation by a multiple of the width is none. -/
theorem rotateLeft_of_mod_eq_zero (v : BitVec 28) {k : Nat} (h : k % 28 = 0) : v.rotateLeft k = v := by
  ext j hj
  simp [h]

/-- The slice form of a rotation by `k`: the low `28 - k` bits move up, the high `k` bits re-enter below. -/
theorem rotateLeft_eq_slices (v : BitVec 28) {m k : Nat} (hmk : m + k = 28) (hm : 0 < m) :
    v.rotateLeft k = (v.extractLsb' 0 m ++ v.extractLsb' m k).cast hmk := by
  apply BitVec.eq_of_getLsbD_eq
  intro j hj
  rw [getLsbD_rotateLeft_mod v k hj, BitVec.getLsbD_cast, BitVec.getLsbD_append]
  by_cases hk : j < k
  · have hsource : (j + 28 - k % 28) % 28 = m + j := by omega
    simp [hk, hsource]
  · have hsource : (j + 28 - k % 28) % 28 = j - k := by omega
    have hjm : j - k < m := by omega
    simp [hk, hsource, hjm]

/-- Settles O24: a rotation is the library's rotation, which gives the source of each bit and the two slices. -/
theorem rotl28RotatesWithinTwentyEightBits : Obligations.Rotl28RotatesWithinTwentyEightBits := by
  refine ⟨fun v n s => ⟨rotl28 v n, rfl, fun j hj => getLsbD_rotl28 v n hj⟩, fun v => ?_, fun v => ?_⟩
  · exact rotateLeft_eq_slices v (m := 27) (k := 1) rfl (by decide)
  · exact rotateLeft_eq_slices v (m := 26) (k := 2) rfl (by decide)

/-! ## The schedule (R113) and the halves (R110, R114, R116) -/

/-- Settles O25: the schedule evaluated at each round. -/
theorem rotationScheduleIsTheStandards : Obligations.RotationScheduleIsTheStandards := by
  unfold Obligations.RotationScheduleIsTheStandards
  decide

/-- Settles O26: the halves are those of `keyHalves`, whose recursion is the rotation by the schedule. -/
theorem deriveSubkeysFollowsTheFourSteps : Obligations.DeriveSubkeysFollowsTheFourSteps := by
  intro key s
  refine ⟨deriveSubkeys key, fun i => (keyHalves key i).1, fun i => (keyHalves key i).2, rfl, rfl, rfl, fun i => ?_⟩
  exact ⟨rfl, rfl, deriveSubkeys_getElem key i.val i.isLt⟩

/-- How far the halves are rotated after `i` rounds: the total of the schedule up to there. -/
def shiftTotal (i : Nat) : Nat := ((List.range' 1 i).map fun j => rotBits (shiftAmount j)).sum

theorem shiftTotal_succ (i : Nat) : shiftTotal (i + 1) = shiftTotal i + rotBits (shiftAmount (i + 1)) := by
  simp [shiftTotal, List.range'_1_concat, Nat.add_comm 1 i]

/-- The halves after `i` rounds are the initial ones rotated by the total of the schedule. -/
theorem keyHalves_eq_rotateLeft (key : BitVec 64) (i : Nat) :
    keyHalves key i =
      ((keyHalves key 0).1.rotateLeft (shiftTotal i), (keyHalves key 0).2.rotateLeft (shiftTotal i)) := by
  induction i with
  | zero =>
    have hzero : shiftTotal 0 % 28 = 0 := rfl
    rw [rotateLeft_of_mod_eq_zero _ hzero, rotateLeft_of_mod_eq_zero _ hzero]
  | succ i ih => rw [keyHalves_succ, ih, rotateKeyHalves, rotl28_rotateLeft, rotl28_rotateLeft, ← shiftTotal_succ]

/-- Settles O27: rotations add up, and the total of the schedule is the width of a half. -/
theorem keyHalvesReturnAfterSixteenRounds : Obligations.KeyHalvesReturnAfterSixteenRounds := by
  refine ⟨fun v => ?_, by decide, fun key => ?_⟩
  · rw [rotl28_eq_rotateLeft v .one, rotl28_rotateLeft]
    exact rotl28_eq_rotateLeft v .two
  · have htotal : shiftTotal 16 % 28 = 0 := by decide
    rw [keyHalves_eq_rotateLeft, rotateLeft_of_mod_eq_zero _ htotal, rotateLeft_of_mod_eq_zero _ htotal]

/-! ## The parity bits (R118) -/

/-- The 56 key bits that PC1 selects: all but bit 0 of each byte (R97, R118). -/
def effectiveKeyBits : BitVec 64 := 0xFEFEFEFEFEFEFEFE#64

theorem effectiveKeyBits_source : ∀ j < 56, effectiveKeyBits.getLsbD (tablePC1.source j) = true := by decide

/-- PC1 selects no parity bit. -/
theorem permute_tablePC1_effective (key : BitVec 64) :
    permute tablePC1 (key &&& effectiveKeyBits) = permute tablePC1 key := by
  apply BitVec.eq_of_getLsbD_eq
  intro j hj
  rw [getLsbD_permute_source _ _ hj, getLsbD_permute_source _ _ hj, BitVec.getLsbD_and, effectiveKeyBits_source j hj,
    Bool.and_true]

theorem keyHalves_effective (key : BitVec 64) (i : Nat) :
    keyHalves (key &&& effectiveKeyBits) i = keyHalves key i := by
  induction i with
  | zero => rw [keyHalves_zero, keyHalves_zero, initialKeyHalves, initialKeyHalves, permute_tablePC1_effective]
  | succ i ih => rw [keyHalves_succ, keyHalves_succ, ih]

theorem deriveSubkeys_effective (key : BitVec 64) : deriveSubkeys (key &&& effectiveKeyBits) = deriveSubkeys key := by
  apply Vector.ext
  intro i hi
  rw [deriveSubkeys_getElem, deriveSubkeys_getElem, keyHalves_effective]

/-- The key acts on a block through its subkeys alone. -/
theorem encryptBlock_congr_subkeys {key key' : BitVec 64} (h : deriveSubkeys key = deriveSubkeys key')
    (m : BitVec 64) : encryptBlock m key = encryptBlock m key' := by
  rw [encryptBlock, encryptBlock, dataHalves, dataHalves, h]

/-- Keys that agree outside the parity bits have the same subkeys. -/
theorem deriveSubkeys_congr_effective {key key' : BitVec 64}
    (h : key &&& effectiveKeyBits = key' &&& effectiveKeyBits) : deriveSubkeys key = deriveSubkeys key' := by
  rw [← deriveSubkeys_effective key, h, deriveSubkeys_effective]

theorem xor_and_effective {key m : BitVec 64} (h : m &&& effectiveKeyBits = 0#64) :
    (key ^^^ m) &&& effectiveKeyBits = key &&& effectiveKeyBits := by
  have hdistrib : (key ^^^ m) &&& effectiveKeyBits = (key &&& effectiveKeyBits) ^^^ (m &&& effectiveKeyBits) := by
    ext j hj
    simp [Bool.and_xor_distrib_right]
  rw [hdistrib, h, BitVec.xor_zero]

/-! ## Bit 7 of a password byte (R216) -/

/-- Bit 7 of a password byte is the parity bit of its key byte. -/
theorem mirror8_and_parity : ∀ b : Byte, mirror8 b &&& 0xFE#8 = mirror8 (b &&& 0x7F#8) := by decide

theorem passwordKeyByte_and_parity (p : List Byte) (j : Nat) :
    passwordKeyByte p j &&& 0xFE#8 = passwordKeyByte (p.map fun b => b &&& 0x7F#8) j := by
  unfold passwordKeyByte
  rw [List.getElem?_map]
  cases p[j]? with
  | none => rfl
  | some b => exact mirror8_and_parity b

/-- Masking the low part of a value whose high part is already masked. -/
theorem append_and_append_of_eq {w v : Nat} {x x' z : BitVec w} (y y' : BitVec v) (h : x &&& x' = z) :
    (x ++ y) &&& (x' ++ y') = z ++ (y &&& y') := by
  rw [BitVec.and_append, h]

/-- A mask on a word of bytes is a mask on each byte. -/
theorem bytesToWord_and (a m : Bytes8) :
    bytesToWord a &&& bytesToWord m =
      bytesToWord ⟨a.b0 &&& m.b0, a.b1 &&& m.b1, a.b2 &&& m.b2, a.b3 &&& m.b3, a.b4 &&& m.b4, a.b5 &&& m.b5,
        a.b6 &&& m.b6, a.b7 &&& m.b7⟩ := by
  iterate 7 refine append_and_append_of_eq _ _ ?_
  rfl

theorem keyFromPasswordBytes_effective (p : List Byte) :
    keyFromPasswordBytes p &&& effectiveKeyBits = keyFromPasswordBytes (p.map fun b => b &&& 0x7F#8) := by
  have hmask : effectiveKeyBits = bytesToWord ⟨0xFE#8, 0xFE#8, 0xFE#8, 0xFE#8, 0xFE#8, 0xFE#8, 0xFE#8, 0xFE#8⟩ := by
    decide
  rw [hmask, keyFromPasswordBytes, keyFromPasswordBytes, bytesToWord_and]
  simp only [passwordKeyByte_and_parity]

/-- Settles O28: PC1 sees the effective bits only, and passwords that agree below bit 7 give keys that agree there. -/
theorem parityBitsHaveNoEffect : Obligations.ParityBitsHaveNoEffect := by
  refine ⟨fun key m hm => ?_, fun p p' plaintext hp => ?_⟩
  · have hsubkeys : deriveSubkeys (key ^^^ m) = deriveSubkeys key :=
      deriveSubkeys_congr_effective (xor_and_effective hm)
    exact ⟨hsubkeys, encryptBlock_congr_subkeys hsubkeys⟩
  · refine encryptBlock_congr_subkeys (deriveSubkeys_congr_effective ?_) plaintext
    rw [keyFromPasswordBytes_effective, keyFromPasswordBytes_effective, hp]

end Sys2Proof.Machine
end

section
/-! PROOFS. The S-boxes: the model's decimal rows agree with the hex digits of the boxes, and the raw-input table is those
digits read in the order of R131 (R130 to R140). -/

namespace Sys2Proof.Machine
open Sys2Proof.Certificates

/-! ## The tables -/

/-- The model's rows and the hex digits are the same 512 entries (R132 to R139). -/
theorem sbox_entry : ∀ (box : Fin 8) (row : BitVec 2) (col : BitVec 4),
    (sbox box).entry row col = boxEntry box.val row col := by
  decide

/-- The raw-input table is the boxes read at row `x[5] ‖ x[0]`, column `x[4:1]` (R131, R140). -/
theorem rawEntry_eq_boxEntry : ∀ (box : Fin 8) (x : BitVec 6),
    rawEntry box x = boxEntry box.val (sboxRow x) (sboxCol x) := by
  decide

theorem lutContent_eq_boxEntry (box : Fin 8) (row : BitVec 2) (col : BitVec 4) :
    lutContent box row col = boxEntry box.val row col :=
  sbox_entry box row col

theorem substitute_eq_rawEntry (box : Fin 8) (x : BitVec 6) : substitute box x = rawEntry box x := by
  rw [substitute, sbox_entry, rawEntry_eq_boxEntry]

/-! ## The rows -/

/-- Delivering the content of a LUT address writes the digit of its box, row and column, and nothing else. -/
theorem next_deliver_lutContent (box : Fin 8) (row : BitVec 2) (col : BitVec 4) (s : State) :
    (.next (deliver (.nibble (lutContent box row col)) s) : Host.Outcome State Fault Refusal) =
      .next { s with fnOut := .nibble (boxEntry box.val row col) } := by
  rw [lutContent_eq_boxEntry, deliver]

/-- Settles O17: row S`b` delivers the LUT content of box `b`, which is the digit of the box. -/
theorem sboxLutRowsHoldTheEntries : Obligations.SboxLutRowsHoldTheEntries := by
  intro row col s
  have row_of_box (box : Fin 8) := next_deliver_lutContent box row col s
  exact ⟨row_of_box 0, row_of_box 1, row_of_box 2, row_of_box 3, row_of_box 4, row_of_box 5, row_of_box 6, row_of_box 7⟩

theorem exec_substitute (box : Fin 8) (x : BitVec 6) (s : State) :
    exec (.substitute box x) s = .next (deliver (.nibble (substitute box x)) s) :=
  rfl

/-- Settles O18: both sides are the boxes read at row `x[5] ‖ x[0]`, column `x[4:1]`. -/
theorem substituteIsTheRawInputTable : Obligations.SubstituteIsTheRawInputTable := by
  intro box x s
  constructor
  · rw [exec_substitute, substitute_eq_rawEntry, deliver]
  · exact rawEntry_eq_boxEntry box x

end Sys2Proof.Machine
end

section
/-! PROOFS. The round function: nibble `g` of the substituted word comes from box `g` and six-bit group `g` alone, and
complemented operands have the same expanded xor (R150 to R157). -/

namespace Sys2Proof.Machine

/-! ## The five steps (R150 to R154) -/

/-- A nibble above the last one appended is a nibble of what it was appended to. -/
theorem extractLsb'_append_nibble {w : Nat} (x : BitVec w) (y : BitVec 4) (k : Nat) :
    (x ++ y).extractLsb' (k + 4) 4 = x.extractLsb' k 4 := by
  rw [BitVec.extractLsb'_append_eq_of_le (Nat.le_add_left 4 k), Nat.add_sub_cancel]

/-- Eight nibbles joined, the first one most significant: nibble `g` is cut out again at its place, under the nibbles
appended after it (R153). -/
theorem extractLsb'_joinNibbles (nibbles : Fin 8 → BitVec 4) (g : Fin 8) :
    (joinNibbles nibbles).extractLsb' (28 - 4 * g.val) 4 = nibbles g := by
  fin_cases g
  all_goals repeat refine (extractLsb'_append_nibble _ _ _).trans ?_
  · exact BitVec.extractLsb'_eq_self
  all_goals exact BitVec.extractLsb'_append_eq_right

/-- The lanes are separate: nibble `g` is box `g` at group `g` (R156). -/
theorem extractLsb'_substituteGroups (x : BitVec 48) (g : Fin 8) :
    (substituteGroups x).extractLsb' (28 - 4 * g.val) 4 = substitute g (sixBitGroup x g) :=
  extractLsb'_joinNibbles _ g

theorem exec_roundFunction (rightHalf : BitVec 32) (subkey : BitVec 48) (s : State) :
    exec (.roundFunction rightHalf subkey) s = .next (deliver (.word32 (roundFunction rightHalf subkey)) s) :=
  rfl

/-- Settles O29: the word before P is the eight lanes joined; group `g` counted from 1 is lane `g - 1`. -/
theorem roundFunctionFollowsTheFiveSteps : Obligations.RoundFunctionFollowsTheFiveSteps := by
  intro rightHalf subkey s
  refine ⟨substituteGroups (permute tableE rightHalf ^^^ subkey), fun g h1 h8 => ?_, ?_⟩
  · have hnibble : 32 - 4 * g = 28 - 4 * (g - 1) := by omega
    have hgroup : 48 - 6 * g = 42 - 6 * (g - 1) := by omega
    rw [hnibble, hgroup]
    exact extractLsb'_substituteGroups _ ⟨g - 1, by omega⟩
  · rw [exec_roundFunction, roundFunction, deliver]

/-! ## The dependence on the xor alone (R157) -/

theorem roundFunction_congr_xor {r r' : BitVec 32} {k k' : BitVec 48}
    (h : permute tableE r ^^^ k = permute tableE r' ^^^ k') : roundFunction r k = roundFunction r' k' := by
  rw [roundFunction, h, roundFunction]

/-- A permutation commutes with the complement, which is a xor with all-ones (R100). -/
theorem permute_not {w n : Nat} (t : PermTable w n) (v : BitVec w) : permute t (~~~v) = ~~~permute t v := by
  rw [← BitVec.xor_allOnes, permute_xor, permute_allOnes, BitVec.xor_allOnes]

/-- Settles O30: the steps after the xor read nothing else, and the two complements cancel in it. -/
theorem roundFunctionSeesOnlyTheXor : Obligations.RoundFunctionSeesOnlyTheXor := by
  refine ⟨fun r r' k k' => roundFunction_congr_xor, fun r k => roundFunction_congr_xor ?_⟩
  rw [permute_not, ← BitVec.not_xor_left, ← BitVec.not_xor_right, BitVec.not_not]

end Sys2Proof.Machine
end

section
/-! PROOFS. `encryptBlock`: its five steps, the bijection of each key, and the complement (R170, R173). -/

namespace Sys2Proof.Machine

/-! ## The five steps (R170) -/

theorem exec_encryptBlock (plaintext key : BitVec 64) (s : State) :
    exec (.encryptBlock plaintext key) s = .next (deliver (.block (encryptBlock plaintext key)) s) :=
  rfl

/-- Settles O31: the halves are those of `dataHalves`, whose recursion is the Feistel round. -/
theorem encryptBlockFollowsTheFiveSteps : Obligations.EncryptBlockFollowsTheFiveSteps := by
  intro plaintext key s
  refine ⟨fun i => (dataHalves plaintext key i).1, fun i => (dataHalves plaintext key i).2, ?_⟩
  simp only [dataHalves_zero, dataHalves_succ _ _ _ (Fin.isLt _)]
  exact ⟨rfl, rfl, fun i => ⟨rfl, rfl⟩, exec_encryptBlock plaintext key s⟩

/-! ## The bijection (R173 (b)): every step of `encryptBlock` is one -/

theorem permute_tableIP_bijective : Function.Bijective (permute tableIP) :=
  Function.bijective_iff_has_inverse.mpr
    ⟨permute tableFP, permute_permute_eq_self source_tableIP_tableFP, permute_permute_eq_self source_tableFP_tableIP⟩

theorem permute_tableFP_bijective : Function.Bijective (permute tableFP) :=
  Function.bijective_iff_has_inverse.mpr
    ⟨permute tableIP, permute_permute_eq_self source_tableFP_tableIP, permute_permute_eq_self source_tableIP_tableFP⟩

/-- The pre-output of the halves of a block, swapped back, is the block. -/
theorem preOutput_swap_splitDataHalves (x : BitVec 64) : preOutput (splitDataHalves x).swap = x :=
  BitVec.extractLsb'_append_extractLsb' (w := 32) (len := 32)

/-- The halves of a pre-output are the halves it was put together from, swapped. -/
theorem splitDataHalves_preOutput (lr : DataHalf × DataHalf) : splitDataHalves (preOutput lr) = lr.swap :=
  Prod.ext BitVec.extractLsb'_append_eq_left BitVec.extractLsb'_append_eq_right

theorem splitDataHalves_bijective : Function.Bijective splitDataHalves :=
  Function.bijective_iff_has_inverse.mpr
    ⟨fun lr => preOutput lr.swap, preOutput_swap_splitDataHalves, fun lr => splitDataHalves_preOutput lr.swap⟩

theorem preOutput_bijective : Function.Bijective preOutput :=
  Function.bijective_iff_has_inverse.mpr
    ⟨fun x => (splitDataHalves x).swap, fun lr => congrArg Prod.swap (splitDataHalves_preOutput lr),
      preOutput_swap_splitDataHalves⟩

/-- A Feistel round followed by a swap undoes itself: the half that enters the round function is still there. -/
theorem swap_feistelRound_involutive (subkey : Subkey) :
    Function.Involutive fun lr => (feistelRound lr subkey).swap := by
  intro lr
  simp [feistelRound]

theorem feistelRound_bijective (subkey : Subkey) : Function.Bijective fun lr => feistelRound lr subkey :=
  (Function.Bijective.of_comp_iff' Prod.swap_bijective _).mp (swap_feistelRound_involutive subkey).bijective

theorem dataHalves_bijective (key : BitVec 64) {i : Nat} (h : i ≤ 16) :
    Function.Bijective fun m => dataHalves m key i := by
  induction i with
  | zero =>
    simp only [dataHalves_zero]
    exact splitDataHalves_bijective.comp permute_tableIP_bijective
  | succ i ih =>
    simp only [dataHalves_succ _ _ _ h]
    exact (feistelRound_bijective _).comp (ih (by omega))

theorem encryptBlock_bijective (key : BitVec 64) : Function.Bijective fun m => encryptBlock m key :=
  (permute_tableFP_bijective.comp preOutput_bijective).comp (dataHalves_bijective key le_rfl)

/-- Settles O33: every step is a bijection, the rounds whatever their subkeys are. -/
theorem encryptBlockIsABijectionForEachKey : Obligations.EncryptBlockIsABijectionForEachKey :=
  fun key => ⟨fun _ _ h => (encryptBlock_bijective key).injective h, (encryptBlock_bijective key).surjective⟩

/-! ## The complement (R173 (d)) -/

/-- Both halves of a pair complemented. -/
def complementHalves {w : Nat} (x : BitVec w × BitVec w) : BitVec w × BitVec w := (~~~x.1, ~~~x.2)

theorem rotl28_not (v : BitVec 28) (n : RotAmount) : rotl28 (~~~v) n = ~~~rotl28 v n := by
  apply BitVec.eq_of_getLsbD_eq
  intro j hj
  have hsource : (j + 28 - rotBits n) % 28 < 28 := Nat.mod_lt _ (by decide)
  rw [getLsbD_rotl28 _ _ hj, BitVec.getLsbD_not, BitVec.getLsbD_not, getLsbD_rotl28 _ _ hj, decide_eq_true hj,
    decide_eq_true hsource]

/-- A slice within the width commutes with the complement. -/
theorem extractLsb'_not_of_le {w start len : Nat} (x : BitVec w) (h : start + len ≤ w) :
    (~~~x).extractLsb' start len = ~~~x.extractLsb' start len := by
  ext j hj
  have hlt : start + j < w := by omega
  simp [hlt]

theorem splitKeyHalves_not (x : BitVec 56) : splitKeyHalves (~~~x) = complementHalves (splitKeyHalves x) :=
  Prod.ext (extractLsb'_not_of_le x (by decide)) (extractLsb'_not_of_le x (by decide))

theorem splitDataHalves_not (x : BitVec 64) : splitDataHalves (~~~x) = complementHalves (splitDataHalves x) :=
  Prod.ext (extractLsb'_not_of_le x (by decide)) (extractLsb'_not_of_le x (by decide))

theorem keyHalves_not (key : BitVec 64) (i : Nat) : keyHalves (~~~key) i = complementHalves (keyHalves key i) := by
  induction i with
  | zero => simp only [keyHalves_zero, initialKeyHalves, permute_not, splitKeyHalves_not]
  | succ i ih => simp only [keyHalves_succ, ih, rotateKeyHalves, complementHalves, rotl28_not]

theorem compressKeyHalves_complement (cd : KeyHalf × KeyHalf) :
    compressKeyHalves (complementHalves cd) = ~~~compressKeyHalves cd := by
  rw [compressKeyHalves, joinKeyHalves, complementHalves, ← BitVec.not_append, permute_not, compressKeyHalves,
    joinKeyHalves]

/-- Complementing the key complements every subkey: PC1, the rotations and PC2 only move bits. -/
theorem deriveSubkeys_not_getElem (key : BitVec 64) {i : Nat} (h : i < 16) :
    (deriveSubkeys (~~~key))[i] = ~~~(deriveSubkeys key)[i] := by
  rw [deriveSubkeys_getElem, deriveSubkeys_getElem, keyHalves_not, compressKeyHalves_complement]

theorem roundFunction_not_not (r : BitVec 32) (k : BitVec 48) : roundFunction (~~~r) (~~~k) = roundFunction r k :=
  roundFunctionSeesOnlyTheXor.2 r k

/-- With half and subkey complemented the round function is the same, and the xor passes the complement on. -/
theorem feistelRound_complement (lr : DataHalf × DataHalf) (subkey : Subkey) :
    feistelRound (complementHalves lr) (~~~subkey) = complementHalves (feistelRound lr subkey) := by
  simp only [feistelRound, complementHalves, roundFunction_not_not, BitVec.not_xor_left]

theorem dataHalves_not (m key : BitVec 64) {i : Nat} (h : i ≤ 16) :
    dataHalves (~~~m) (~~~key) i = complementHalves (dataHalves m key i) := by
  induction i with
  | zero => simp only [dataHalves_zero, initialDataHalves, permute_not, splitDataHalves_not]
  | succ i ih =>
    rw [dataHalves_succ _ _ _ h, dataHalves_succ _ _ _ h, ih (by omega), deriveSubkeys_not_getElem,
      feistelRound_complement]

theorem finalBlock_complement (lr : DataHalf × DataHalf) : finalBlock (complementHalves lr) = ~~~finalBlock lr := by
  rw [finalBlock, preOutput, complementHalves, ← BitVec.not_append, permute_not, finalBlock, preOutput]

/-- Settles O34: each stage passes the complement on, up to the final permutation. -/
theorem encryptBlockCommutesWithComplement : Obligations.EncryptBlockCommutesWithComplement := by
  intro m key
  rw [encryptBlock_eq, dataHalves_not m key le_rfl, finalBlock_complement, ← encryptBlock_eq]

end Sys2Proof.Machine
end

section
/-! PROOFS. Single instructions of the controller: the host commands (R180 to R185) and the micro-operations (R186 to
R190). -/

namespace Sys2Proof.Machine

/-! ## Host commands -/

theorem exec_ldkey (key : BitVec 64) (s : State) : exec (.ldkey key) s = .next (whenIdle (loadKey key) s) := rfl

theorem exec_ldblk (block : BitVec 64) (s : State) : exec (.ldblk block) s = .next (whenIdle (loadBlock block) s) := rfl

theorem exec_start (s : State) : exec .start s = .next (whenIdle beginOperation s) := rfl

theorem exec_rsvd (n : BitVec 2) (s : State) : exec (.rsvd n) s = .next (raiseFault illcmdBit s) := rfl

/-- While busy LDKEY, LDBLK and START set BUSYCMD and nothing else (R181). -/
theorem exec_busy {i : Instr} {din : BitVec 64} {s : State} (hb : s.phase ≠ .idle)
    (hi : i = .ldkey din ∨ i = .ldblk din ∨ i = .start) : exec i s = .next (raiseFault busycmdBit s) := by
  rcases hi with rfl | rfl | rfl
  · rw [exec_ldkey, whenIdle_busy _ hb]
  · rw [exec_ldblk, whenIdle_busy _ hb]
  · rw [exec_start, whenIdle_busy _ hb]

/-- A sample with `cmd[2]` = 1 decodes to the reserved row (R66). -/
theorem decode_reserved {cmd : BitVec 3} (din : BitVec 64) (h : cmd.getLsbD 2 = true) :
    ∃ n : BitVec 2, decode (.command (commandWord cmd din)) = .ok (.rsvd n) := by
  obtain ⟨n, rfl⟩ := exists_reserved_code cmd h
  exact ⟨n, decode_rsvd n din⟩

/-- While busy every command but NOP raises BUSYCMD or ILLCMD (R180). -/
theorem exec_busy_fault {cmd : BitVec 3} {din : BitVec 64} {i : Instr} {s : State} (hne : cmd ≠ 0b000#3)
    (hb : s.phase ≠ .idle) (h : decode (.command (commandWord cmd din)) = .ok i) :
    exec i s = .next (raiseFault busycmdBit s) ∨ exec i s = .next (raiseFault illcmdBit s) := by
  rcases cmd_cases cmd with hc | rfl | rfl | rfl | hc
  · exact absurd hc hne
  · obtain rfl := Except.ok.inj ((decode_ldkey din).symm.trans h)
    exact .inl (exec_busy hb (.inl rfl))
  · obtain rfl := Except.ok.inj ((decode_ldblk din).symm.trans h)
    exact .inl (exec_busy hb (.inr (.inl rfl)))
  · obtain rfl := Except.ok.inj ((decode_start din).symm.trans h)
    exact .inl (exec_busy (din := din) hb (.inr (.inr rfl)))
  · obtain ⟨n, hn⟩ := decode_reserved din hc
    obtain rfl := Except.ok.inj (hn.symm.trans h)
    exact .inr (exec_rsvd n s)

/-- Settles O5: the code of NOP, its empty rule, and the fault of every other code while busy. -/
theorem nopChangesNothing : Obligations.NopChangesNothing := by
  refine ⟨decode_nop, fun s => rfl, fun cmd din i s hne hb h => ?_⟩
  rcases exec_busy_fault hne hb h with he | he
  · exact ⟨busycmdBit, by decide, he⟩
  · exact ⟨illcmdBit, by decide, he⟩

/-- Settles O6: in IDLE the load is accepted. -/
theorem ldkeyLoadsTheKeyWhenIdle : Obligations.LdkeyLoadsTheKeyWhenIdle := by
  refine ⟨decode_ldkey, fun din s hi => ?_⟩
  rw [exec_ldkey, whenIdle_idle _ hi, loadKey]

/-- Settles O7: in IDLE the load is accepted. -/
theorem ldblkLoadsTheBlockWhenIdle : Obligations.LdblkLoadsTheBlockWhenIdle := by
  refine ⟨decode_ldblk, fun din s hi => ?_⟩
  rw [exec_ldblk, whenIdle_idle _ hi, loadBlock]

/-- Settles O8: in IDLE the operation begins where both operands are loaded, and UNLOADED is raised elsewhere. -/
theorem startBeginsOrIsRefusedWhenIdle : Obligations.StartBeginsOrIsRefusedWhenIdle := by
  refine ⟨decode_start, fun s hi hk hb => ?_, fun s hi hl => ?_⟩
  · rw [exec_start, whenIdle_idle _ hi, beginOperation_loaded hk hb]
  · rw [exec_start, whenIdle_idle _ hi, beginOperation_unloaded hl, raiseFault, unloadedBit]

/-- Settles O9: the command alone sets BUSYCMD, and the edge goes on with the micro-operation. -/
theorem commandsWhileBusySetBusycmdOnly : Obligations.CommandsWhileBusySetBusycmdOnly := by
  refine ⟨fun din i s hb hi => exec_busy hb hi, fun p s hr hb hc => ?_⟩
  have hbit : busyFaultBit p = 0b010#3 := by rcases hc with hc | hc | hc <;> simp [busyFaultBit, hc]
  rw [edge_busy hr hb, hbit, raiseFault]

/-- Settles O10: the reserved row sets ILLCMD whatever PHASE is, and the edge goes on with the rule of the phase. -/
theorem reservedCodesSetIllcmdOnly : Obligations.ReservedCodesSetIllcmdOnly := by
  refine ⟨fun cmd din => decode_reserved din, fun n s => exec_rsvd n s, fun p s hr hc => ?_⟩
  obtain ⟨n, hn⟩ := decode_reserved p.din hc
  rw [edge_of_decode hr hn, exec_rsvd, andThen_next, raiseFault, illcmdBit]

/-! ## Micro-operations -/

/-- Settles O11: the assignments of R186. -/
theorem kspc1LoadsTheKeyHalves : Obligations.Kspc1LoadsTheKeyHalves :=
  ⟨rfl, fun _ => rfl⟩

/-- Settles O13: the assignments of R188. -/
theorem ipermLoadsTheDataHalves : Obligations.IpermLoadsTheDataHalves :=
  ⟨rfl, fun _ => rfl⟩

/-- Settles O15: the assignments of R190. -/
theorem fpermWritesTheResult : Obligations.FpermWritesTheResult :=
  ⟨rfl, fun _ => rfl⟩

/-- The end of round `i + 1`, before round 16 and at it (R187, R189). -/
theorem advanceRound_of_val (after : Phase) {s : State} {i : Fin 16} (h : s.rnd.val = i.val + 1) :
    advanceRound after s =
      { s with
        rnd := if i.val + 1 < 16 then Fin.ofNat 17 (i.val + 2) else 0,
        phase := if i.val + 1 < 16 then s.phase else after } := by
  by_cases hlt : i.val + 1 < 16
  · rw [advanceRound_of_lt after (by omega), h, if_pos hlt, if_pos hlt]
  · rw [advanceRound_of_ge after (by omega), if_neg hlt, if_neg hlt]

theorem exec_ksrot_of_val {s : State} {i : Fin 16} (h : s.rnd.val = i.val + 1) :
    exec .ksrot s = .next (keyRound i s) :=
  inRound_of_val keyRound h

theorem exec_round_of_val {s : State} {i : Fin 16} (h : s.rnd.val = i.val + 1) :
    exec .round s = .next (dataRound i s) :=
  inRound_of_val dataRound h

/-- Settles O12: RND names the round, whose end is `advanceRound`. -/
theorem ksrotDoesOneRoundOfTheKeySchedule : Obligations.KsrotDoesOneRoundOfTheKeySchedule := by
  refine ⟨rfl, fun i s h => ?_⟩
  rw [exec_ksrot_of_val h, keyRound, advanceRound_of_val .iperm (i := i)]
  · rfl
  · exact h

/-- Settles O14: RND names the round, whose end is `advanceRound`. -/
theorem roundDoesOneFeistelRound : Obligations.RoundDoesOneFeistelRound := by
  refine ⟨rfl, fun i s h => ?_⟩
  rw [exec_round_of_val h, dataRound, advanceRound_of_val .fperm (i := i)]
  · rfl
  · exact h

end Sys2Proof.Machine
end

section
/-! PROOFS. An operation from START to DONE: no step stops (R175, R237), the timeline (R191) and the result (R171). -/

namespace Sys2Proof.Machine
open Sys2Proof.Safety

/-! ## No step stops (R175, R237) -/

/-- An edge answers a next state wherever RND names a round in KSROT and ROUND. -/
theorem edge_next_exists (p : PortIn) {s : State} (h : s.phase = .ksrot ∨ s.phase = .round → 1 ≤ s.rnd.val) :
    ∃ t : State, edge p s = .next t := by
  cases hr : p.rst with
  | true => exact ⟨_, edge_reset s hr⟩
  | false =>
    by_cases hi : s.phase = .idle
    · exact ⟨_, edge_idle hr hi⟩
    · obtain ⟨t, ht⟩ := microResult_exists (s := raiseFault (busyFaultBit p) s) hi h
      exact ⟨t, (edge_busy_iff hr hi).mpr ht⟩

/-- Settles O57: the control invariant gives KSROT and ROUND a round, and taking the sample does not touch it. -/
theorem noReachableStepStops : Obligations.NoReachableStepStops := by
  intro s hinv
  rw [step_eq]
  exact edge_next_exists _ (by simpa using hinv.1.mpr)

/-! ## The result (R171) -/

/-- What a command presented while busy makes of ERR (R181, R185). -/
def errAfter (e : BitVec 3) (p : PortIn) : BitVec 3 := e ||| busyFaultBit p

theorem edge_busy_err {p : PortIn} {s t : State} (hr : p.rst = false) (hb : s.phase ≠ .idle)
    (h : edge p s = .next t) : t.err = errAfter s.err p := by
  rw [edge_err h, hr, faultOf_busy hr hb, errAfter]
  rfl

theorem OperationAt.busy {key block : BitVec 64} {k : Nat} {s : State} (h : OperationAt key block k s) (hk : k < 35) :
    s.phase ≠ .idle :=
  h.phase_eq ▸ timeline_busy k hk

/-- Along an operation ERR collects the faults of the commands presented, one after the other. -/
theorem OperationAt.run_err {key block : BitVec 64} {k : Nat} {s t : State} {ps rest : List PortIn}
    (h : OperationAt key block k s) (hhost : s.host = ps ++ rest) (hk : k + ps.length ≤ 35)
    (hrst : ∀ q ∈ ps, q.rst = false) (ht : Host.Core.run Sys2Proof.core ps.length s = .next t) :
    t.err = ps.foldl errAfter s.err := by
  induction ps generalizing k s with
  | nil =>
    cases ht
    rfl
  | cons p ps ih =>
    rw [List.length_cons] at hk ht
    have hop := h.with_host (ps ++ rest)
    have hr : p.rst = false := hrst p List.mem_cons_self
    obtain ⟨u, hu, huhost, hopu⟩ := hop.next_edge (by omega) hr
    rw [run_of_step ((step_cons hhost).trans hu)] at ht
    rw [List.foldl_cons, ih hopu huhost (by omega) (fun q hq => hrst q (List.mem_cons_of_mem p hq)) ht,
      edge_busy_err hr (hop.busy (by omega)) hu]

/-- An accepted START leaves ERR and RND as they were (R184). -/
theorem step_start_frame {s t : State} {p : PortIn} {rest : List PortIn} (hi : s.phase = .idle) (hk : s.kv = true)
    (hb : s.bv = true) (hhost : s.host = p :: rest) (hr : p.rst = false) (hc : p.cmd = 0b011#3)
    (h : step s = .next t) : t.err = s.err ∧ t.rnd = s.rnd := by
  rw [step_cons hhost, (edge_idle_iff (s := { s with host := rest }) hr hi).mpr (.start hc hk hb)] at h
  cases h
  exact ⟨rfl, rfl⟩

/-- Settles O59: START begins an operation, 35 edges end it, and ERR collects the faults on the way. -/
theorem operationComputesEncryptBlock : Obligations.OperationComputesEncryptBlock := by
  intro s p ps rest hi hk hb hhost hr hc hlen hrst
  obtain ⟨u, hu, huhost, hop⟩ := step_start hi hk hb hhost hr hc
  obtain ⟨t, ht, hthost, hopt⟩ := hop.run huhost (by omega) hrst
  have herr := hop.run_err huhost (by omega) hrst ht
  rw [(step_start_frame hi hk hb hhost hr hc hu).1] at herr
  rw [hlen] at ht hopt
  exact ⟨t, (run_of_step hu).trans ht, hopt.result rfl, hopt.done_eq, hopt.phase_eq, hopt.rnd_eq (by decide),
    hopt.key_eq, hopt.din_eq, hopt.loaded.1, hopt.loaded.2, hthost, herr⟩

/-! ## WAIT (R76) -/

/-- PHASE, RND and DONE of the k-th place of the timeline, whatever the data registers hold. RND before KSPC1 does not
matter. -/
structure TimelineAt (k : Nat) (s : State) : Prop where
  phase_eq : s.phase = (timeline k).1
  rnd_eq : 1 ≤ k → s.rnd = (timeline k).2
  done_eq : s.done = decide (k = 35)

theorem OperationAt.timelineAt {key block : BitVec 64} {k : Nat} {s : State} (h : OperationAt key block k s) :
    TimelineAt k s :=
  ⟨h.phase_eq, h.rnd_eq, h.done_eq⟩

theorem TimelineAt.nextControl_eq {k : Nat} {s : State} (h : TimelineAt k s) (hk : k < 35) :
    nextControl s.phase s.rnd = timeline (k + 1) := by
  rcases Nat.eq_zero_or_pos k with rfl | hpos
  · rw [h.phase_eq]; rfl
  · rw [h.phase_eq, h.rnd_eq hpos, timeline_succ k hk]

/-- A line NOP goes on along the timeline. -/
theorem TimelineAt.next_nop {k : Nat} {s : State} (ignored : BitVec 64) (h : TimelineAt k s) (hk : k < 35) :
    ∃ t : State, edge (lineSample ignored .nop) s = .next t ∧ TimelineAt (k + 1) t := by
  have hb : s.phase ≠ .idle := h.phase_eq ▸ timeline_busy k hk
  have hround (hp : s.phase = .ksrot ∨ s.phase = .round) : 1 ≤ s.rnd.val := by
    obtain ⟨h1, hrnd⟩ := timeline_rnd_pos k hk (h.phase_eq ▸ hp)
    rwa [h.rnd_eq h1]
  obtain ⟨t, ht⟩ := edge_next_exists (lineSample ignored .nop) hround
  have hcontrol : (t.phase, t.rnd) = timeline (k + 1) := (edge_busy_control rfl hb ht).trans (h.nextControl_eq hk)
  have hfperm : s.phase = .fperm ↔ k = 34 := h.phase_eq ▸ timeline_fperm_iff k hk
  obtain ⟨-, -, hdone⟩ := ((edge_busy_iff rfl hb).mp ht).flags
  have hk35 : k ≠ 35 := by omega
  exact ⟨t, ht, congrArg Prod.fst hcontrol, fun _ => congrArg Prod.snd hcontrol,
    by simp [hdone, h.done_eq, hfperm, hk35]⟩

/-- From the k-th place, DONE is 1 after the NOP lines that are left on the timeline, and not before. -/
theorem TimelineAt.waitCount_eq {k n bound : Nat} {s : State} (ignored : BitVec 64) (h : TimelineAt k s)
    (hkn : k + n = 35) (hbound : n ≤ bound) : waitCount ignored bound s = some n := by
  induction n generalizing k s bound with
  | zero => exact waitCount_of_done ignored bound (h.done_eq.trans (decide_eq_true hkn))
  | succ n ih =>
    obtain ⟨bound, rfl⟩ : ∃ b, bound = b + 1 := ⟨bound - 1, by omega⟩
    obtain ⟨t, ht, hnext⟩ := h.next_nop ignored (by omega)
    have hd : s.done = false := h.done_eq.trans (decide_eq_false (by omega))
    rw [waitCount_of_edge ignored bound hd ht, ih hnext (by omega) (by omega)]
    rfl

theorem TimelineAt.waitLines_eq {k : Nat} {s : State} (ignored : BitVec 64) (h : TimelineAt k s) (hk : k ≤ 35) :
    waitLines ignored s = some (nopTimes (35 - k)) := by
  rw [waitLines, h.waitCount_eq ignored (n := 35 - k) (by omega) (by omega), Option.map_some]

/-- In IDLE with DONE = 0 a NOP changes nothing, so no number of them suffices (log 22). -/
theorem waitCount_idle {bound : Nat} {s : State} (ignored : BitVec 64) (hi : s.phase = .idle) (hd : s.done = false) :
    waitCount ignored bound s = none := by
  induction bound with
  | zero => simp [waitCount, donePort, hd]
  | succ bound ih => rw [waitCount_of_edge ignored bound hd (edge_nop_idle ignored hi), ih, Option.map_none]

/-! ## Lines and expansions (R76) -/

theorem runLines_append {ignored : BitVec 64} {first second : List Line} {s t : State}
    (h : runLines ignored first s = .next t) :
    runLines ignored (first ++ second) s = runLines ignored second t := by
  rw [runLines, List.map_append, runEdges_append, ← runLines, h, andThen_next, ← runLines]

/-- Two expansions that succeed one after the other. -/
theorem expandBoth_eq {ignored : BitVec 64} {first second : State → Option (List Line)} {ls ms : List Line}
    {s t : State} (hfirst : first s = some ls) (hrun : runLines ignored ls s = .next t) (hsecond : second t = some ms) :
    expandBoth ignored first second s = some (ls ++ ms) := by
  rw [expandBoth, afterExpansion_of_run _ hfirst hrun, hsecond, Option.map_some]

/-- `expansion` stands in `s` for `lines`, which run to the end of an operation on `key` and `m`, in the state `t`, and
leave ERR as it was. -/
structure Encrypts (ignored : BitVec 64) (expansion : State → Option (List Line)) (lines : List Line)
    (key m : BitVec 64) (s t : State) : Prop where
  lines_eq : expansion s = some lines
  run_eq : runLines ignored lines s = .next t
  operation : OperationAt key m 35 t
  err_eq : t.err = s.err

/-- One operation, then another. -/
theorem Encrypts.append {ignored key key' m m' : BitVec 64} {first second : State → Option (List Line)}
    {ls ms : List Line} {s t u : State} (h : Encrypts ignored first ls key m s t)
    (h' : Encrypts ignored second ms key' m' t u) :
    Encrypts ignored (expandBoth ignored first second) (ls ++ ms) key' m' s u :=
  ⟨expandBoth_eq h.lines_eq h.run_eq h'.lines_eq, (runLines_append h.run_eq).trans h'.run_eq, h'.operation,
    h'.err_eq.trans h.err_eq⟩

/-- NOP lines take an operation to its end and set no ERR bit. -/
theorem OperationAt.runLines_nops {key m : BitVec 64} {k n : Nat} {s : State} (ignored : BitVec 64)
    (h : OperationAt key m k s) (hkn : k + n = 35) :
    ∃ t : State, runLines ignored (nopTimes n) s = .next t ∧ OperationAt key m 35 t ∧ t.err = s.err := by
  induction n generalizing k s with
  | zero =>
    obtain rfl : k = 35 := hkn
    exact ⟨s, rfl, h, rfl⟩
  | succ n ih =>
    obtain ⟨u, hu, -, hopu⟩ := h.next_edge (p := lineSample ignored .nop) (by omega) rfl
    obtain ⟨t, ht, hopt, herr⟩ := ih hopu (by omega)
    have huerr : u.err = s.err := by
      simpa [errAfter, busyFaultBit, lineSample] using edge_busy_err rfl (h.busy (by omega)) hu
    exact ⟨t, (runEdges_of_edge _ hu).trans ht, hopt, herr.trans huerr⟩

/-- Lines that end in an accepted START, then WAIT. -/
theorem linesThenWait_encrypts {ignored key m : BitVec 64} {lines : List Line} {s u : State}
    (hrun : runLines ignored lines s = .next u) (hop : OperationAt key m 0 u) (herr : u.err = s.err) :
    ∃ t : State, Encrypts ignored (linesThenWait ignored lines) (lines ++ nopTimes 35) key m s t := by
  obtain ⟨t, ht, hopt, hterr⟩ := hop.runLines_nops ignored (n := 35) rfl
  exact ⟨t, expandBoth_eq rfl hrun (hop.timelineAt.waitLines_eq ignored (by decide)), (runLines_append hrun).trans ht,
    hopt, hterr.trans herr⟩

/-- In IDLE with a key loaded, LDBLK and START begin an operation (R183, R184). -/
theorem runLines_ldblk_start (ignored m : BitVec 64) {s : State} (hi : s.phase = .idle) (hk : s.kv = true) :
    ∃ t : State, runLines ignored [.ldblk m, .start] s = .next t ∧ OperationAt s.key m 0 t ∧ t.err = s.err := by
  have hldblk : edge (lineSample ignored (.ldblk m)) s = .next (loadBlock m s) := (edge_idle_iff rfl hi).mpr (.ldblk rfl)
  have hstart := (edge_idle_iff (p := lineSample ignored .start) (s := loadBlock m s) rfl hi).mpr (.start rfl hk rfl)
  refine ⟨_, (runEdges_of_edge _ hldblk).trans (runEdges_of_edge _ hstart), ?_, rfl⟩
  exact ⟨rfl, fun h => absurd h (by decide), rfl, rfl, ⟨hk, rfl⟩, rfl, trivial, fun h => absurd h (by decide)⟩

/-- ENCRYPT8 from IDLE: the loads and START, then WAIT (R220). -/
theorem encrypt8Lines_encrypts (ignored key m : BitVec 64) {s : State} (hi : s.phase = .idle) :
    ∃ t : State, Encrypts ignored (encrypt8Lines ignored key m) ([.ldkey key, .ldblk m, .start] ++ nopTimes 35)
      key m s t := by
  have hldkey : edge (lineSample ignored (.ldkey key)) s = .next (loadKey key s) :=
    (edge_idle_iff rfl hi).mpr (.ldkey rfl)
  obtain ⟨u, hu, hop, herr⟩ := runLines_ldblk_start ignored m (s := loadKey key s) hi rfl
  exact linesThenWait_encrypts ((runEdges_of_edge _ hldkey).trans hu) hop herr

/-- The second half of ENCRYPT16, where the key is loaded already (R220). -/
theorem encryptNextLines_encrypts (ignored m : BitVec 64) {key m0 : BitVec 64} {s : State}
    (h : OperationAt key m0 35 s) :
    ∃ t : State, Encrypts ignored (encryptNextLines ignored m) ([.ldblk m, .start] ++ nopTimes 35) key m s t := by
  obtain ⟨u, hu, hop, herr⟩ := runLines_ldblk_start ignored m h.phase_eq h.loaded.1
  exact linesThenWait_encrypts hu (h.key_eq ▸ hop) herr

/-- At the end of an operation the host takes the ciphertext. -/
theorem Encrypts.takeDout_eq {ignored key m : BitVec 64} {expansion : State → Option (List Line)} {lines : List Line}
    {s t : State} (h : Encrypts ignored expansion lines key m s t) : takeDout t = some (encryptBlock m key) := by
  have hdone : t.done = true := h.operation.done_eq
  simp [takeDout, donePort, doutPort, hdone, h.operation.result rfl]

theorem Encrypts.afterExpansion_eq {α : Type} {ignored key m : BitVec 64} {expansion : State → Option (List Line)}
    {lines : List Line} {s t : State} (h : Encrypts ignored expansion lines key m s t)
    (k : List Line → State → Option α) : afterExpansion ignored expansion k s = k lines t :=
  afterExpansion_of_run k h.lines_eq h.run_eq

/-- What the host takes after ENCRYPT8 (R220). -/
theorem encrypt8Result_eq (ignored key m : BitVec 64) {s : State} (hi : s.phase = .idle) :
    encrypt8Result ignored key m s = some (encryptBlock m key) := by
  obtain ⟨t, ht⟩ := encrypt8Lines_encrypts ignored key m hi
  rw [encrypt8Result, ht.afterExpansion_eq, ht.takeDout_eq]

/-- The 75 lines of ENCRYPT16: one operation, then the other (R280, R220). -/
theorem encrypt16Lines_encrypts (ignored key m0 m1 : BitVec 64) {s : State} (hi : s.phase = .idle) :
    ∃ u : State, Encrypts ignored (encrypt16Lines ignored key m0 m1)
      ([.ldkey key, .ldblk m0, .start] ++ nopTimes 35 ++ ([.ldblk m1, .start] ++ nopTimes 35)) key m1 s u := by
  obtain ⟨t, ht⟩ := encrypt8Lines_encrypts ignored key m0 hi
  obtain ⟨u, hu⟩ := encryptNextLines_encrypts ignored m1 ht.operation
  exact ⟨u, ht.append hu⟩

/-- What the host takes in the middle and at the end of ENCRYPT16 (R220). -/
theorem encrypt16Result_eq (ignored key m0 m1 : BitVec 64) {s : State} (hi : s.phase = .idle) :
    encrypt16Result ignored key m0 m1 s = some (encryptBlock m0 key, encryptBlock m1 key) := by
  obtain ⟨t, ht⟩ := encrypt8Lines_encrypts ignored key m0 hi
  obtain ⟨u, hu⟩ := encryptNextLines_encrypts ignored m1 ht.operation
  rw [encrypt16Result, ht.afterExpansion_eq, ht.takeDout_eq]
  simp only [hu.afterExpansion_eq, hu.takeDout_eq, Option.map_some]

/-! ## The byte-level procedures (R220) -/

/-- On an idle engine a request returns its bytes. -/
theorem requestResult_eq (ignored : BitVec 64) (request : EncryptRequest) {s : State} (hi : s.phase = .idle) :
    requestResult ignored request s = some (requestBytes request) := by
  cases request with
  | one key m => rw [requestResult, encrypt8Result_eq ignored key m hi, Option.map_some, requestBytes]
  | two key m0 m1 => rw [requestResult, encrypt16Result_eq ignored key m0 m1 hi, Option.map_some, requestBytes]

/-- The lines of a request take an idle engine back to IDLE and set no ERR bit. -/
theorem requestLines_run (ignored : BitVec 64) (request : EncryptRequest) {s : State} (hi : s.phase = .idle) :
    ∃ (lines : List Line) (t : State), requestLines ignored request s = some lines ∧
      runLines ignored lines s = .next t ∧ t.phase = .idle ∧ t.err = s.err := by
  cases request with
  | one key m =>
    obtain ⟨t, ht⟩ := encrypt8Lines_encrypts ignored key m hi
    exact ⟨_, t, ht.lines_eq, ht.run_eq, ht.operation.phase_eq, ht.err_eq⟩
  | two key m0 m1 =>
    obtain ⟨t, ht⟩ := encrypt16Lines_encrypts ignored key m0 m1 hi
    exact ⟨_, t, ht.lines_eq, ht.run_eq, ht.operation.phase_eq, ht.err_eq⟩

/-- `encrypt(message, key)` on an idle engine returns what the procedure returns (R220). -/
theorem encryptOnEngine_eq (ignored : BitVec 64) (message key : List Byte) {s : State} (hi : s.phase = .idle) :
    encryptOnEngine ignored message key s = some (encryptBytes message key) := by
  cases h : encryptRequest message key with
  | ok request =>
    rw [(encryptOnEngine_of_ok ignored s h).2, requestResult_eq ignored request hi, encryptBytes_of_ok h,
      Option.map_some]
  | error e => rw [(encryptOnEngine_of_error ignored s h).2, encryptBytes_of_error h]

theorem encryptLines_run (ignored : BitVec 64) (message key : List Byte) {s : State} (hi : s.phase = .idle) :
    ∃ (lines : List Line) (t : State), encryptLines ignored message key s = some lines ∧
      runLines ignored lines s = .next t ∧ t.phase = .idle ∧ t.err = s.err := by
  cases h : encryptRequest message key with
  | ok request =>
    rw [(encryptOnEngine_of_ok ignored s h).1]
    exact requestLines_run ignored request hi
  | error e => exact ⟨[], s, (encryptOnEngine_of_error ignored s h).1, rfl, hi, rfl⟩

/-- A wrong length fails a check (R213, R214). -/
theorem encryptRequest_error_of_length {message key : List Byte}
    (h : message.length ≠ 8 ∧ message.length ≠ 16 ∨ key.length ≠ 8) :
    ∃ e : HostError, encryptRequest message key = .error e := by
  rcases encryptRequest_cases message key with ⟨_, he⟩ | ⟨_, _, _, he⟩ | ⟨hk, hm, _⟩ | ⟨hk, hm, _⟩
  · exact ⟨_, he⟩
  · exact ⟨_, he⟩
  · omega
  · omega

/-! ## The timeline (R191) -/

/-- After an accepted START in a state with RND = 0, PHASE and RND are at the k-th place of the timeline. -/
theorem run_timeline {s : State} {p : PortIn} {ps rest : List PortIn} (hi : s.phase = .idle) (hrnd : s.rnd = 0)
    (hk : s.kv = true) (hb : s.bv = true) (hhost : s.host = p :: (ps ++ rest)) (hr : p.rst = false)
    (hc : p.cmd = 0b011#3) (hlen : ps.length ≤ 35) (hrst : ∀ q ∈ ps, q.rst = false) :
    ∃ t : State, Host.Core.run Sys2Proof.core (ps.length + 1) s = .next t ∧ t.host = rest ∧
      (t.phase, t.rnd) = timeline ps.length ∧ (ps.length < 35 → t.done = false) := by
  obtain ⟨u, hu, huhost, hop⟩ := step_start hi hk hb hhost hr hc
  obtain ⟨t, ht, hthost, hopt⟩ := hop.run huhost (by omega) hrst
  rw [Nat.zero_add] at hopt
  have htrnd : t.rnd = (timeline ps.length).2 := by
    cases ps with
    | nil =>
      cases ht
      exact (step_start_frame hi hk hb hhost hr hc hu).2.trans hrnd
    | cons q qs => exact hopt.rnd_eq (Nat.succ_pos _)
  have hdone (hlt : ps.length < 35) : t.done = false := hopt.done_eq.trans (decide_eq_false hlt.ne)
  exact ⟨t, (run_of_step hu).trans ht, hthost, Prod.ext hopt.phase_eq htrnd, hdone⟩

/-- Settles O58: the operation goes along the timeline; WAIT is what is left of it; ENCRYPT8 and ENCRYPT16 are one and
two operations; the byte-level procedure issues them after its checks. -/
theorem operationFollowsTheTimeline : Obligations.OperationFollowsTheTimeline := by
  refine ⟨?_, ?_, ?_, ?_, ?_⟩
  · rintro s p ps rest k hi hrnd hk hb hhost hr hc rfl hlen hrst
    exact run_timeline hi hrnd hk hb hhost hr hc hlen hrst
  · intro ignored s k hk htimeline hd
    obtain ⟨hphase, hrnd⟩ := Prod.mk.inj htimeline
    have hat : TimelineAt k s := ⟨hphase, fun _ => hrnd, by simp [hd, hk.ne]⟩
    exact hat.waitLines_eq ignored hk.le
  · intro ignored s
    refine ⟨fun hd => ?_, fun hd hi => ?_⟩
    · rw [waitLines, waitCount_of_done ignored 35 hd]; rfl
    · rw [waitLines, waitCount_idle ignored hi hd]; rfl
  · intro ignored key m0 m1 s hi
    obtain ⟨_, h8⟩ := encrypt8Lines_encrypts ignored key m0 hi
    obtain ⟨_, h16⟩ := encrypt16Lines_encrypts ignored key m0 m1 hi
    exact ⟨h8.lines_eq, encrypt8Result_eq ignored key m0 hi, h16.lines_eq, encrypt16Result_eq ignored key m0 m1 hi⟩
  · intro ignored message key s hi
    refine ⟨encryptOnEngine_eq ignored message key hi, fun hlen => ?_, encryptLines_run ignored message key hi⟩
    obtain ⟨e, he⟩ := encryptRequest_error_of_length hlen
    exact (encryptOnEngine_of_error ignored s he).1

end Sys2Proof.Machine
end

section
/-! PROOFS. The host procedures: words and bytes, the rows of `encrypt(message, key)` by the two lengths, the mirrored
password key (R210 to R219). -/

namespace Sys2Proof.Machine

/-! ## Words and bytes (R210) -/

/-- Byte `k` of a word, the most significant byte being byte 0. -/
theorem getElem_bytesToList_wordToBytes (v : BitVec 64) {k : Nat} (h : k < (bytesToList (wordToBytes v)).length) :
    (bytesToList (wordToBytes v))[k] = v.extractLsb' (56 - 8 * k) 8 := by
  have hlist : bytesToList (wordToBytes v) = (List.range 8).map fun i => v.extractLsb' (56 - 8 * i) 8 := rfl
  simp [hlist]

/-- A byte above the last one appended is a byte of what it was appended to. -/
theorem extractLsb'_append_byte {w : Nat} (x : BitVec w) (y : Byte) (k : Nat) :
    (x ++ y).extractLsb' (k + 8) 8 = x.extractLsb' k 8 := by
  rw [BitVec.extractLsb'_append_eq_of_le (Nat.le_add_left 8 k), Nat.add_sub_cancel]

/-- Each byte is cut out again at its place, under the bytes appended after it. -/
theorem wordToBytes_bytesToWord (b : Bytes8) : wordToBytes (bytesToWord b) = b := by
  cases b
  rw [wordToBytes, Bytes8.mk.injEq]
  refine ⟨?_, ?_, ?_, ?_, ?_, ?_, ?_, ?_⟩
  all_goals repeat refine (extractLsb'_append_byte _ _ _).trans ?_
  · exact BitVec.extractLsb'_eq_self
  all_goals exact BitVec.extractLsb'_append_eq_right

theorem extractLsb'_bytesToWord (b : Bytes8) {k : Nat} (h : k < (bytesToList b).length) :
    (bytesToWord b).extractLsb' (56 - 8 * k) 8 = (bytesToList b)[k] := by
  have hbyte := getElem_bytesToList_wordToBytes (bytesToWord b) h
  simp only [wordToBytes_bytesToWord] at hbyte
  exact hbyte.symm

/-- Words that agree on each of their eight bytes are equal. -/
theorem eq_of_extractLsb'_eq {v w : BitVec 64}
    (h : ∀ k < 8, v.extractLsb' (56 - 8 * k) 8 = w.extractLsb' (56 - 8 * k) 8) : v = w := by
  apply BitVec.eq_of_getLsbD_eq
  intro j hj
  have hbit := congrArg (BitVec.getLsbD · (j % 8)) (h (7 - j / 8) (by omega))
  have hplace : 56 - 8 * (7 - j / 8) + j % 8 = j := by omega
  simpa [BitVec.getLsbD_extractLsb', Nat.mod_lt, hplace] using hbit

theorem bytesToWord_wordToBytes (v : BitVec 64) : bytesToWord (wordToBytes v) = v :=
  eq_of_extractLsb'_eq fun _ hk => (extractLsb'_bytesToWord _ hk).trans (getElem_bytesToList_wordToBytes v hk)

theorem exec_bytesToWord (b : Bytes8) (s : State) :
    exec (.bytesToWord b) s = .next (deliver (.block (bytesToWord b)) s) :=
  rfl

/-- Settles O35: byte `k` is cut out at its place, so each conversion undoes the other. -/
theorem bytesToWordIsBigEndian : Obligations.BytesToWordIsBigEndian :=
  ⟨exec_bytesToWord, fun b _ h => extractLsb'_bytesToWord b h, wordToBytes_bytesToWord, bytesToWord_wordToBytes⟩

/-! ## The rows of `encrypt(message, key)` (R211 to R214) -/

/-- What a byte-level procedure returns, as the value it delivers (R230, R236). -/
def returnedResult : Except HostError (List Byte) → FnResult
  | .ok b => .bytes b
  | .error e => .error e

theorem deliverBytes_eq (v : Except HostError (List Byte)) (s : State) :
    deliverBytes v s = deliver (returnedResult v) s := by
  cases v <;> rfl

/-- The three rows of `encrypt(message, key)` are one procedure (log 18). -/
theorem exec_encrypt {message key : List Byte} {i : Instr} (s : State)
    (h : i = .encrypt8 message key ∨ i = .encrypt16 message key ∨ i = .encryptBadlength message key) :
    exec i s = .next (deliver (returnedResult (encryptBytes message key)) s) := by
  rw [← deliverBytes_eq]
  rcases h with rfl | rfl | rfl <;> rfl

theorem encryptBytes_of_key_length {message key : List Byte} (hk : key.length ≠ 8) :
    encryptBytes message key = .error (.invalidKeyLength key.length) := by
  rcases encryptRequest_cases message key with ⟨_, he⟩ | ⟨hk', _⟩ | ⟨hk', _⟩ | ⟨hk', _⟩
  · exact encryptBytes_of_error he
  all_goals exact absurd hk' hk

theorem encryptBytes_of_message_length {message key : List Byte} (hk : key.length = 8) (h8 : message.length ≠ 8)
    (h16 : message.length ≠ 16) : encryptBytes message key = .error (.invalidInputLength message.length) := by
  rcases encryptRequest_cases message key with ⟨hk', _⟩ | ⟨_, _, _, he⟩ | ⟨_, h8', _⟩ | ⟨_, h16', _⟩
  · exact absurd hk hk'
  · exact encryptBytes_of_error he
  · exact absurd h8' h8
  · exact absurd h16' h16

theorem encryptBytes_of_eight {message key : List Byte} (hm : message.length = 8) (hk : key.length = 8) :
    ∃ m k : Bytes8, bytesToList m = message ∧ bytesToList k = key ∧
      encryptBytes message key = .ok (blockBytes (encryptBlock (bytesToWord m) (bytesToWord k))) := by
  rcases encryptRequest_cases message key with ⟨hk', _⟩ | ⟨_, h8, _⟩ | ⟨_, _, k, m, hkey, hmessage, he⟩ | ⟨_, h16, _⟩
  · exact absurd hk hk'
  · exact absurd hm h8
  · exact ⟨m, k, hmessage, hkey, encryptBytes_of_ok he⟩
  · omega

theorem encryptBytes_of_sixteen {message key : List Byte} (hm : message.length = 16) (hk : key.length = 8) :
    ∃ m0 m1 k : Bytes8, bytesToList m0 = message.take 8 ∧ bytesToList m1 = message.drop 8 ∧ bytesToList k = key ∧
      encryptBytes message key =
        .ok (twoBlockBytes
          (encryptBlock (bytesToWord m0) (bytesToWord k), encryptBlock (bytesToWord m1) (bytesToWord k))) := by
  rcases encryptRequest_cases message key with
    ⟨hk', _⟩ | ⟨_, _, h16, _⟩ | ⟨_, h8, _⟩ | ⟨_, _, k, m0, m1, hkey, hfirst, hlast, he⟩
  · exact absurd hk hk'
  · exact absurd hm h16
  · omega
  · exact ⟨m0, m1, k, hfirst, hlast, hkey, encryptBytes_of_ok he⟩

/-- Settles O36: the request of an 8-byte message is its one block. -/
theorem encryptOfEightBytesIsOneBlock : Obligations.EncryptOfEightBytesIsOneBlock := by
  intro message key s hm hk
  obtain ⟨m, k, hmessage, hkey, he⟩ := encryptBytes_of_eight hm hk
  refine ⟨m, k, hmessage, hkey, ?_⟩
  rw [exec_encrypt s (.inl rfl), he]
  rfl

/-- Settles O37: the request of a 16-byte message is its two blocks under the one key. -/
theorem encryptOfSixteenBytesIsTwoIndependentBlocks : Obligations.EncryptOfSixteenBytesIsTwoIndependentBlocks := by
  intro message key s hm hk
  obtain ⟨m0, m1, k, hfirst, hlast, hkey, he⟩ := encryptBytes_of_sixteen hm hk
  refine ⟨m0, m1, k, hfirst, hlast, hkey, ?_⟩
  rw [exec_encrypt s (.inr (.inl rfl)), he]
  rfl

/-- Settles O39: a wrong key length is the first case of the checks. -/
theorem encryptChecksTheKeyLengthFirst : Obligations.EncryptChecksTheKeyLengthFirst := by
  intro message key i s hk hi
  rw [exec_encrypt s hi, encryptBytes_of_key_length hk]
  rfl

/-- A message of 8 or 16 bytes is refused for its key alone, else answered with as many bytes. -/
theorem encryptBytes_of_good_length {message key : List Byte} (hm : message.length = 8 ∨ message.length = 16) :
    (key.length ≠ 8 ∧ encryptBytes message key = .error (.invalidKeyLength key.length)) ∨
    (key.length = 8 ∧ ∃ b : List Byte, encryptBytes message key = .ok b ∧ b.length = message.length) := by
  by_cases hk : key.length = 8
  · refine .inr ⟨hk, ?_⟩
    rcases hm with hm | hm
    · obtain ⟨_, _, _, _, he⟩ := encryptBytes_of_eight hm hk
      exact ⟨_, he, hm.symm⟩
    · obtain ⟨_, _, _, _, _, _, he⟩ := encryptBytes_of_sixteen hm hk
      exact ⟨_, he, hm.symm⟩
  · exact .inl ⟨hk, encryptBytes_of_key_length hk⟩

/-- Settles O38: a bad message length under a good key is refused; a good one is refused for the key or not at all. -/
theorem encryptReturnsInvalidInputLengthExactly : Obligations.EncryptReturnsInvalidInputLengthExactly := by
  refine ⟨fun message key s hk h8 h16 => ?_, fun message key n hm => ?_⟩
  · rw [exec_encrypt s (.inr (.inr rfl)), encryptBytes_of_message_length hk h8 h16]
    rfl
  · rcases encryptBytes_of_good_length (key := key) hm with ⟨_, he⟩ | ⟨_, b, he, _⟩
    · simp [he]
    · simp [he]

/-! ## `mirror8` and MIR (R215, R219) -/

theorem getLsbD_mirror8 (b : Byte) {j : Nat} (h : j ≤ 7) : (mirror8 b).getLsbD j = b.getLsbD (7 - j) := by
  have hj : j < 8 := Nat.lt_succ_of_le h
  have hback : 7 - j < 8 := by omega
  refine (BitVec.getLsbD_ofBoolListBE (bs := (List.range 8).map b.getLsbD)).trans ?_
  simp [hj, hback]

theorem exec_mirror8 (b : Byte) (s : State) : exec (.mirror8 b) s = .next (deliver (.byte (mirror8 b)) s) := rfl

theorem mirror8_mirror8 (b : Byte) : mirror8 (mirror8 b) = b := by
  apply BitVec.eq_of_getLsbD_eq
  intro j hj
  have hplace : 7 - (7 - j) = j := by omega
  rw [getLsbD_mirror8 _ (by omega), getLsbD_mirror8 _ (by omega), hplace]

/-- Settles O40: bit `j` is bit `7-j`, and counting back twice is counting forth. -/
theorem mirror8ReversesTheBits : Obligations.Mirror8ReversesTheBits :=
  ⟨fun b s => ⟨mirror8 b, exec_mirror8 b s, fun _ hj => getLsbD_mirror8 b hj⟩, mirror8_mirror8⟩

/-- MIR counts the bits of each byte back and leaves the byte at its place. -/
theorem source_tableMIR : ∀ k < 8, ∀ r < 8, tableMIR.source (56 - 8 * k + r) = 56 - 8 * k + (7 - r) := by decide

/-- Byte `k` of the mirrored word is the mirror of byte `k`. -/
theorem extractLsb'_permute_tableMIR (v : BitVec 64) {k : Nat} (hk : k < 8) :
    (permute tableMIR v).extractLsb' (56 - 8 * k) 8 = mirror8 (v.extractLsb' (56 - 8 * k) 8) := by
  apply BitVec.eq_of_getLsbD_eq
  intro r hr
  have hback : 7 - r < 8 := by omega
  rw [getLsbD_mirror8 _ (by omega), BitVec.getLsbD_extractLsb', BitVec.getLsbD_extractLsb',
    getLsbD_permute_source _ _ (by omega), source_tableMIR k hk r hr, decide_eq_true hr, decide_eq_true hback]

/-- Settles O41: both words have the mirror of byte `k` as their byte `k`; the mirrored bytes are a mapped list. -/
theorem mirrorOfAWordIsAPermutation : Obligations.MirrorOfAWordIsAPermutation := by
  intro b
  refine eq_of_extractLsb'_eq fun k hk => ?_
  rw [extractLsb'_permute_tableMIR _ hk, extractLsb'_bytesToWord b hk, extractLsb'_bytesToWord _ hk]
  exact (List.getElem_map (l := bytesToList b) mirror8).symm

/-! ## Passwords (R216 to R218) -/

/-- The eight key bytes of an encoded password (R216). -/
def keyBytesOfPassword (p : List Byte) : Bytes8 :=
  ⟨passwordKeyByte p 0, passwordKeyByte p 1, passwordKeyByte p 2, passwordKeyByte p 3,
    passwordKeyByte p 4, passwordKeyByte p 5, passwordKeyByte p 6, passwordKeyByte p 7⟩

theorem exec_deriveKeyFromPassword (password : Text) (s : State) :
    exec (.deriveKeyFromPassword password) s =
      .next (deliver (.block (bytesToWord (keyBytesOfPassword (encodePassword password)))) s) :=
  rfl

theorem getElem_keyBytesOfPassword (p : List Byte) {j : Nat} (h : j < (bytesToList (keyBytesOfPassword p)).length) :
    (bytesToList (keyBytesOfPassword p))[j] = passwordKeyByte p j := by
  have hlist : bytesToList (keyBytesOfPassword p) = (List.range 8).map (passwordKeyByte p) := rfl
  simp [hlist]

theorem passwordKeyByte_of_lt {p : List Byte} {j : Nat} (h : j < p.length) : passwordKeyByte p j = mirror8 p[j] := by
  simp [passwordKeyByte, h]

theorem passwordKeyByte_of_ge {p : List Byte} {j : Nat} (h : p.length ≤ j) : passwordKeyByte p j = 0x00#8 := by
  simp [passwordKeyByte, h]

/-- The code of a character of U+0020 to U+007E fits a byte (R217). -/
theorem toNat_encodePassword {password : Text} (h : ∀ ch ∈ password, 0x20 ≤ ch.toNat ∧ ch.toNat ≤ 0x7E) :
    (encodePassword password).map BitVec.toNat = password.map Char.toNat := by
  have hprintable : password.all isPrintableAscii = true := by simpa [isPrintableAscii] using h
  rw [encodePassword, if_pos hprintable, List.map_map]
  refine List.map_congr_left fun ch hch => ?_
  have hcode := h ch hch
  exact Nat.mod_eq_of_lt (by omega)

/-- Settles O42: key byte `j` is `passwordKeyByte`, by whether the password has a byte `j`. -/
theorem passwordKeyMirrorsEachByte : Obligations.PasswordKeyMirrorsEachByte := by
  refine ⟨fun password s => ⟨_, exec_deriveKeyFromPassword password s, fun j hj => ?_⟩, fun _ => toNat_encodePassword⟩
  rw [getElem_keyBytesOfPassword]
  exact ⟨passwordKeyByte_of_lt, passwordKeyByte_of_ge⟩

theorem exec_encryptWithPassword (message : List Byte) (password : Text) (s : State) :
    exec (.encryptWithPassword message password) s =
      .next (deliver (returnedResult (encryptBytes message (passwordKeyBytes password))) s) :=
  congrArg Host.Outcome.next (deliverBytes_eq _ s)

/-- Settles O43: the derived key has 8 bytes, so the check is on the message only. -/
theorem encryptWithPasswordUsesTheDerivedKey : Obligations.EncryptWithPasswordUsesTheDerivedKey := by
  intro message password s
  have hk : (passwordKeyBytes password).length = 8 := rfl
  refine ⟨_, exec_encryptWithPassword message password s, fun _ => exec_encrypt s (.inl rfl),
    fun _ => exec_encrypt s (.inr (.inl rfl)), fun _ _ => exec_encrypt s (.inr (.inr rfl)), fun hm => ?_,
    fun h8 h16 => ?_⟩
  · rcases encryptBytes_of_good_length hm with ⟨hne, _⟩ | ⟨_, b, he, hlen⟩
    · exact absurd hk hne
    · exact ⟨b, by rw [he, returnedResult], hlen⟩
  · rw [encryptBytes_of_message_length hk h8 h16, returnedResult]

end Sys2Proof.Machine
end

section
/-! PROOFS. A faulting command beside NOP (R242): the edge is the micro-operation of the phase either way, with the fault's
bit set or not, and from there on no rule reads ERR. -/

namespace Sys2Proof.Machine
open Sys2Proof.Safety

/-- In IDLE the rule of a faulting command, START not loaded or a reserved code, sets the bit of its fault and nothing
else. -/
theorem commandResult_of_fault {p : PortIn} {s : State} (hr : p.rst = false) (hi : s.phase = .idle)
    (hf : faultOf p s ≠ 0b000#3) : CommandResult p s (raiseFault (faultOf p s) s) := by
  by_cases hc : p.cmd.getLsbD 2 = true
  · have hbit : faultOf p s = illcmdBit := by simp [faultOf, hr, hc, illcmdBit]
    rw [hbit]
    exact .reserved hc
  · by_cases hu : p.cmd = 0b011#3 ∧ ¬ (s.kv = true ∧ s.bv = true)
    · have hbit : faultOf p s = unloadedBit := by simp [faultOf, hr, hi, hu, unloadedBit]
      rw [hbit]
      exact .unloaded hu.1 hu.2
    · have hnone : faultOf p s = 0b000#3 := by
        simp only [faultOf, hr, hi, hc, hu, ne_eq, not_true_eq_false, Bool.false_eq_true, if_false, ite_self]
      exact absurd hnone hf

/-- In IDLE no rule of the phase fires (R176). -/
theorem microPart_of_idle {ph : Phase} (hi : ph = .idle) (s : State) : microPart ph s = .next s := by
  rw [hi]
  exact microPart_eq .idle s

/-- An edge with a faulting command is the rule of the phase, in the state with the bit of the fault set. -/
theorem edge_of_fault {p : PortIn} {s : State} (hr : p.rst = false) (hf : faultOf p s ≠ 0b000#3) :
    edge p s = microPart s.phase (raiseFault (faultOf p s) s) := by
  by_cases hi : s.phase = .idle
  · rw [microPart_of_idle hi]
    exact (edge_idle_iff hr hi).mpr (commandResult_of_fault hr hi hf)
  · rw [edge_busy hr hi, faultOf_busy hr hi]

/-- An edge with NOP is the rule of the phase (R180). -/
theorem edge_nop {p : PortIn} (s : State) (hr : p.rst = false) (hc : p.cmd = 0b000#3) :
    edge p s = microPart s.phase s := by
  have hd : decode (.command p.word) = .ok .nop := by rw [PortIn.word, hc, decode_nop]
  exact edge_of_decode hr hd s

theorem faultOf_nop {p : PortIn} (s : State) (hc : p.cmd = 0b000#3) : faultOf p s = 0b000#3 := by
  simp [faultOf, hc]

/-- The rule of the phase neither reads nor writes ERR. -/
theorem microPart_with_err {s t : State} (h : microPart s.phase s = .next t) (e : BitVec 3) :
    microPart s.phase { s with err := e } = .next { t with err := e } := by
  by_cases hi : s.phase = .idle
  · rw [microPart_of_idle hi] at h ⊢
    cases h
    rfl
  · exact (microPart_iff (s := { s with err := e }) hi).mpr (((microPart_iff hi).mp h).of_other_err e)

/-- A run from a state with another ERR differs in ERR only (R22, R244). -/
theorem runEdges_with_err {ps : List PortIn} {s u : State} (h : runEdges ps s = .next u) (e : BitVec 3) :
    ∃ e' : BitVec 3, runEdges ps { s with err := e } = .next { u with err := e' } := by
  induction ps generalizing s e with
  | nil =>
    cases h
    exact ⟨e, rfl⟩
  | cons p ps ih =>
    obtain ⟨t, ht, hrun⟩ := runEdges_cons_next h
    obtain ⟨e₁, he₁⟩ := noRuleReadsErr p s t e ht
    obtain ⟨e₂, he₂⟩ := ih hrun e₁
    exact ⟨e₂, (runEdges_of_edge ps he₁).trans he₂⟩

/-- Settles O47: both edges are the rule of the phase, which keeps ERR, so they differ in the bit of the fault only; and a
later run does not read ERR. -/
theorem aFaultingCommandIsANopButForItsErrBit : Obligations.AFaultingCommandIsANopButForItsErrBit := by
  intro p s t hr hf h
  have herr : t.err = s.err := by simpa [hr, faultOf_nop] using edge_err h
  have hmicro : microPart s.phase s = .next t := (edge_nop (p := { p with cmd := 0b000#3 }) s hr rfl).symm.trans h
  refine ⟨?_, fun later u hrun => runEdges_with_err hrun _⟩
  rw [edge_of_fault hr hf, herr]
  exact microPart_with_err hmicro (s.err ||| faultOf p s)

end Sys2Proof.Machine
end

section
/-! PROOFS. The reset edge (R260), and PHASE, RND, KV and BV along the edges as functions of themselves and the command
alone (R273). -/

namespace Sys2Proof.Machine

/-- Settles O45: with `rst` = 1 only the reset rule fires. -/
theorem resetEdgeClearsControlState : Obligations.ResetEdgeClearsControlState :=
  fun s _ hr => ⟨resetEdge s, edge_reset s hr, rfl, rfl, rfl, rfl, rfl, rfl, rfl, rfl, rfl, rfl, rfl⟩

/-- PHASE and RND after an edge with `rst` = 0: no argument is a data register or `din` (R20, R21, R184). -/
def controlAfter (cmd : BitVec 3) (ph : Phase) (n : RoundNumber) (kv bv : Bool) : Phase × RoundNumber :=
  if ph = .idle then (if cmd = 0b011#3 ∧ kv = true ∧ bv = true then .kspc1 else .idle, n) else nextControl ph n

theorem edge_control {p : PortIn} {s t : State} (hr : p.rst = false) (h : edge p s = .next t) :
    (t.phase, t.rnd) = controlAfter p.cmd s.phase s.rnd s.kv s.bv := by
  unfold controlAfter
  split
  next hi =>
    obtain ⟨hrnd, hphase⟩ := ((edge_idle_iff hr hi).mp h).control hi
    rw [hrnd, hphase]
  next hb => exact edge_busy_control hr hb h

/-- KV and BV after an edge with `rst` = 0: set by the loads in IDLE (R17, R18). -/
theorem edge_loaded {p : PortIn} {s t : State} (hr : p.rst = false) (h : edge p s = .next t) :
    t.kv = (s.kv || decide (s.phase = .idle ∧ p.cmd = 0b001#3)) ∧
    t.bv = (s.bv || decide (s.phase = .idle ∧ p.cmd = 0b010#3)) := by
  obtain ⟨-, -, -, -, -, -, hkv, hbv, -⟩ := registersChangeOnlyByTheirWriters p s t hr h
  exact ⟨hkv, hbv⟩

theorem MicroResult.one_le_rnd {s t : State} (h : MicroResult s t) (hp : s.phase = .ksrot ∨ s.phase = .round) :
    1 ≤ s.rnd.val := by
  cases h with
  | ksrot _ i hi => omega
  | round _ i hi => omega
  | kspc1 hp' => simp [hp'] at hp
  | iperm hp' => simp [hp'] at hp
  | fperm hp' => simp [hp'] at hp

/-- In KSROT and ROUND an edge with `rst` = 0 answers a next state only where RND names a round. -/
theorem edge_one_le_rnd {p : PortIn} {s t : State} (hr : p.rst = false) (h : edge p s = .next t)
    (hp : s.phase = .ksrot ∨ s.phase = .round) : 1 ≤ s.rnd.val := by
  have hb : s.phase ≠ .idle := by rcases hp with hp | hp <;> simp [hp]
  exact ((edge_busy_iff hr hb).mp h).one_le_rnd hp

/-- Settles O53: a reset edge leaves the same control state everywhere; at any other edge PHASE and RND alone decide
whether it answers a next state, and PHASE, RND, KV, BV and `cmd` decide the four values after it. -/
theorem controlDoesNotDependOnData : Obligations.ControlDoesNotDependOnData := by
  intro p p' s s' t hrst hcmd hphase hrnd hkv hbv h
  cases hr : p.rst with
  | true =>
    rw [edge_reset s hr] at h
    cases h
    exact ⟨resetEdge s', edge_reset s' (hrst ▸ hr), rfl, rfl, rfl, rfl⟩
  | false =>
    obtain ⟨t', ht'⟩ : ∃ t' : State, edge p' s' = .next t' :=
      edge_next_exists p' (hphase ▸ hrnd ▸ edge_one_le_rnd hr h)
    have hcontrol := edge_control (hrst ▸ hr) ht'
    obtain ⟨hkv', hbv'⟩ := edge_loaded (hrst ▸ hr) ht'
    rw [← hcmd, ← hphase, ← hrnd, ← hkv, ← hbv, ← edge_control hr h] at hcontrol
    rw [← hcmd, ← hphase, ← hkv] at hkv'
    rw [← hcmd, ← hphase, ← hbv] at hbv'
    obtain ⟨htphase, htrnd⟩ := Prod.mk.inj hcontrol
    obtain ⟨htkv, htbv⟩ := edge_loaded hr h
    exact ⟨t', ht', htphase, htrnd, hkv'.trans htkv.symm, hbv'.trans htbv.symm⟩

end Sys2Proof.Machine
end

section
/-! PROOFS. The known answers: V1 with rows of its traces V1a and V1b, and the first two rows of V5 (R110, R170). -/

namespace Sys2Proof.Machine

/-- K[1] of V1a, the initial halves rotated once. -/
theorem deriveSubkeys_knownKey_first : (deriveSubkeys 0x133457799BBCDFF1#64)[0] = 0x1B02EFFC7072#48 := by
  rw [deriveSubkeys_getElem, keyHalves_succ, keyHalves_zero]
  decide +kernel

/-- K[16] of V1a: after round 16 the halves are back where they started (R116). -/
theorem deriveSubkeys_knownKey_last : (deriveSubkeys 0x133457799BBCDFF1#64)[15] = 0xCB3D8B0E17F5#48 := by
  obtain ⟨-, -, hreturn⟩ := keyHalvesReturnAfterSixteenRounds
  rw [deriveSubkeys_getElem, hreturn, keyHalves_zero]
  decide +kernel

/-- L[16] and R[16] of V1b. -/
theorem dataHalves_knownAnswer :
    dataHalves 0x0123456789ABCDEF#64 0x133457799BBCDFF1#64 16 = (0x43423234#32, 0x0A4CD995#32) := by
  decide +kernel

/-- V1: the halves of the last row of V1b, swapped and through FP. -/
theorem encryptBlock_knownAnswer :
    encryptBlock 0x0123456789ABCDEF#64 0x133457799BBCDFF1#64 = 0x85E813540F0AB405#64 := by
  rw [encryptBlock_eq, dataHalves_knownAnswer]
  decide +kernel

theorem encryptBlock_zero_zero : encryptBlock 0#64 0#64 = 0x8CA64DE9C1B123A7#64 := by
  decide +kernel

/-- The second row of V5 is the complement of the first (R173 (d)). -/
theorem encryptBlock_allOnes_allOnes :
    encryptBlock 0xFFFFFFFFFFFFFFFF#64 0xFFFFFFFFFFFFFFFF#64 = 0x7359B2163E4EDC58#64 :=
  calc encryptBlock (~~~0#64) (~~~0#64)
    _ = ~~~encryptBlock 0#64 0#64 := encryptBlockCommutesWithComplement 0#64 0#64
    _ = ~~~0x8CA64DE9C1B123A7#64 := by rw [encryptBlock_zero_zero]

/-- Settles O32: two subkeys and the last halves of the traces of V1, its block, and the two complementary rows of V5. -/
theorem knownAnswersHold : Obligations.KnownAnswersHold :=
  ⟨encryptBlock_knownAnswer, deriveSubkeys_knownKey_first, deriveSubkeys_knownKey_last, dataHalves_knownAnswer,
    encryptBlock_zero_zero, encryptBlock_allOnes_allOnes⟩

end Sys2Proof.Machine
end
